-- ==== Sys2Proof/Word.lean ====
section
/-! DEFINITION. The value widths of the core (00_scope.md R7, R8) and the one widening the rules use. -/

namespace Sys2Proof

/-- An 8-bit value: a memory cell, a general register, a timer, an immediate `NN`. -/
abbrev Byte := BitVec 8

/-- A 16-bit value: an instruction word, `pc`, `I`, a stack entry. -/
abbrev Word := BitVec 16

/-- The index of a general register, the `X` or `Y` field (R83: all sixteen values are legal). -/
abbrev Reg := Fin 16

/-- The index of a key of the hexadecimal keypad (R31). -/
abbrev Key := Fin 16

/-- `VF`, the register that doubles as the flag register (R22). -/
abbrev VF : Reg := 15

/-- `zext_16` (R8): the same unsigned value viewed at 16 bits. -/
abbrev zext16 {n : Nat} (v : BitVec n) : Word := v.setWidth 16

end Sys2Proof
end

