-- ==== Sys2Proof/Config.lean ====
section
/-! DEFINITION. What the source fixes for every machine (00_scope.md R6, the rows 'fixed by source'), and the one free
value of the hardware. The parameters the spec itself decided (FONT_BASE, FONT_TABLE) stand in Machine/ResetImage.lean,
SPRITE_MSB_LEFT in Machine/Display.lean. -/

namespace Sys2Proof.Config

/-- MEM_SIZE (R6, R50): the number of memory cells. -/
abbrev memSize : Nat := 4096

/-- PC_RESET (R6, R24): the program entry point. -/
abbrev pcReset : Word := 0x200#16

/-- PROG_BASE (R6, R212): where `loadProgram` puts byte 0. -/
abbrev progBase : Nat := 0x200

/-- ROM_MAX (R6, R213): the longest program image. -/
abbrev romMax : Nat := 3584

/-- DESIGN CHOICE (log 8). The random draw of a `step` for which the schedule names none (R160, decision D8: "an input of
`step`, any value 0..255, under no law"). It has no body, so nothing can be proved of its values; it is applied to
the counter `State.draws`, so every such step has a fresh draw. -/
opaque randomByte : Nat → Byte

end Sys2Proof.Config
end

