-- ==== Sys2Proof/Syntax.lean ====
section
/-! DEFINITION. The instructions: one constructor per row of spec/opcode_table.json (30_encoding.md R88), in the table's
order. The operand fields have exactly the widths of R81, so every term is an instruction the hardware has
(R83: "all sixteen values are legal in every instruction"). -/

namespace Sys2Proof

/-- The 34 instructions of R88. `x`, `y` are the register fields, `nn` the byte, `nnn` the 12-bit address, `n` the
sprite height. -/
inductive Instr where
  /-- 00E0 `CLS` (R151). -/
  | cls
  /-- 00EE `RET` (R110). -/
  | ret
  /-- 1NNN `JP addr` (R111). -/
  | jp (nnn : BitVec 12)
  /-- 2NNN `CALL addr` (R112). -/
  | call (nnn : BitVec 12)
  /-- 3XNN `SE Vx, byte` (R113). -/
  | seByte (x : Reg) (nn : Byte)
  /-- 4XNN `SNE Vx, byte` (R114). -/
  | sneByte (x : Reg) (nn : Byte)
  /-- 5XY0 `SE Vx, Vy` (R115). -/
  | seReg (x y : Reg)
  /-- 6XNN `LD Vx, byte` (R120). -/
  | ldByte (x : Reg) (nn : Byte)
  /-- 7XNN `ADD Vx, byte` (R121). -/
  | addByte (x : Reg) (nn : Byte)
  /-- 8XY0 `LD Vx, Vy` (R122). -/
  | ldReg (x y : Reg)
  /-- 8XY1 `OR Vx, Vy` (R123). -/
  | or (x y : Reg)
  /-- 8XY2 `AND Vx, Vy` (R124). -/
  | and (x y : Reg)
  /-- 8XY3 `XOR Vx, Vy` (R125). -/
  | xor (x y : Reg)
  /-- 8XY4 `ADD Vx, Vy` (R126). -/
  | addReg (x y : Reg)
  /-- 8XY5 `SUB Vx, Vy` (R127). -/
  | sub (x y : Reg)
  /-- 8XY6 `SHR Vx, Vy` (R128). -/
  | shr (x y : Reg)
  /-- 8XY7 `SUBN Vx, Vy` (R129). -/
  | subn (x y : Reg)
  /-- 8XYE `SHL Vx, Vy` (R130). -/
  | shl (x y : Reg)
  /-- 9XY0 `SNE Vx, Vy` (R116). -/
  | sneReg (x y : Reg)
  /-- ANNN `LD I, addr` (R140). -/
  | ldI (nnn : BitVec 12)
  /-- BNNN `JP V0, addr` (R117). -/
  | jpV0 (nnn : BitVec 12)
  /-- CXNN `RND Vx, byte` (R160). -/
  | rnd (x : Reg) (nn : Byte)
  /-- DXYN `DRW Vx, Vy, nibble` (R152). -/
  | drw (x y : Reg) (n : BitVec 4)
  /-- EX9E `SKP Vx` (R161). -/
  | skp (x : Reg)
  /-- EXA1 `SKNP Vx` (R162). -/
  | sknp (x : Reg)
  /-- FX07 `LD Vx, DT` (R163). -/
  | ldVxDT (x : Reg)
  /-- FX0A `LD Vx, K` (R164). -/
  | ldVxK (x : Reg)
  /-- FX15 `LD DT, Vx` (R165). -/
  | ldDTVx (x : Reg)
  /-- FX18 `LD ST, Vx` (R166). -/
  | ldSTVx (x : Reg)
  /-- FX1E `ADD I, Vx` (R141). -/
  | addI (x : Reg)
  /-- FX29 `LD F, Vx` (R142). -/
  | ldF (x : Reg)
  /-- FX33 `LD B, Vx` (R143). -/
  | ldB (x : Reg)
  /-- FX55 `LD [I], Vx` (R144). -/
  | storeRegs (x : Reg)
  /-- FX65 `LD Vx, [I]` (R145). -/
  | loadRegs (x : Reg)
  deriving DecidableEq, Repr

end Sys2Proof
end

