-- ==== Sys2Proof/WellFormed.lean ====
section
/-! DEFINITION. What is well-formed: an instruction word (it matches a row of the opcode map, 30_encoding.md R87, R88)
and a program image (its length, 70_reset_and_hazards.md R212, R213). A term of `Instr` needs no check of its
own: its operand types admit exactly the field values of R81 and R83. The map is written here as data from
spec/opcode_table.json, apart from the decoder, so that the two can be held against each other. -/

namespace Sys2Proof

/-- One row of the opcode map of R88: a word `w` is that instruction exactly when `w AND mask = value`. -/
structure OpcodeRow where
  pattern : String
  mask    : Word
  value   : Word
  deriving DecidableEq, Repr

/-- Rows 1 to 7 of R88. -/
def opcodeRowsFlow : List OpcodeRow :=
  [ ⟨"00E0", 0xFFFF#16, 0x00E0#16⟩
  , ⟨"00EE", 0xFFFF#16, 0x00EE#16⟩
  , ⟨"1NNN", 0xF000#16, 0x1000#16⟩
  , ⟨"2NNN", 0xF000#16, 0x2000#16⟩
  , ⟨"3XNN", 0xF000#16, 0x3000#16⟩
  , ⟨"4XNN", 0xF000#16, 0x4000#16⟩
  , ⟨"5XY0", 0xF00F#16, 0x5000#16⟩ ]

/-- Rows 8 to 10 of R88. -/
def opcodeRowsLoad : List OpcodeRow :=
  [ ⟨"6XNN", 0xF000#16, 0x6000#16⟩
  , ⟨"7XNN", 0xF000#16, 0x7000#16⟩
  , ⟨"8XY0", 0xF00F#16, 0x8000#16⟩ ]

/-- Rows 11 to 19 of R88. -/
def opcodeRowsAlu : List OpcodeRow :=
  [ ⟨"8XY1", 0xF00F#16, 0x8001#16⟩
  , ⟨"8XY2", 0xF00F#16, 0x8002#16⟩
  , ⟨"8XY3", 0xF00F#16, 0x8003#16⟩
  , ⟨"8XY4", 0xF00F#16, 0x8004#16⟩
  , ⟨"8XY5", 0xF00F#16, 0x8005#16⟩
  , ⟨"8XY6", 0xF00F#16, 0x8006#16⟩
  , ⟨"8XY7", 0xF00F#16, 0x8007#16⟩
  , ⟨"8XYE", 0xF00F#16, 0x800E#16⟩
  , ⟨"9XY0", 0xF00F#16, 0x9000#16⟩ ]

/-- Rows 20 to 25 of R88. -/
def opcodeRowsMisc : List OpcodeRow :=
  [ ⟨"ANNN", 0xF000#16, 0xA000#16⟩
  , ⟨"BNNN", 0xF000#16, 0xB000#16⟩
  , ⟨"CXNN", 0xF000#16, 0xC000#16⟩
  , ⟨"DXYN", 0xF000#16, 0xD000#16⟩
  , ⟨"EX9E", 0xF0FF#16, 0xE09E#16⟩
  , ⟨"EXA1", 0xF0FF#16, 0xE0A1#16⟩ ]

/-- Rows 26 to 34 of R88. -/
def opcodeRowsF : List OpcodeRow :=
  [ ⟨"FX07", 0xF0FF#16, 0xF007#16⟩
  , ⟨"FX0A", 0xF0FF#16, 0xF00A#16⟩
  , ⟨"FX15", 0xF0FF#16, 0xF015#16⟩
  , ⟨"FX18", 0xF0FF#16, 0xF018#16⟩
  , ⟨"FX1E", 0xF0FF#16, 0xF01E#16⟩
  , ⟨"FX29", 0xF0FF#16, 0xF029#16⟩
  , ⟨"FX33", 0xF0FF#16, 0xF033#16⟩
  , ⟨"FX55", 0xF0FF#16, 0xF055#16⟩
  , ⟨"FX65", 0xF0FF#16, 0xF065#16⟩ ]

/-- The opcode map of R88, all 34 rows in the table's order. -/
def opcodeMap : List OpcodeRow :=
  opcodeRowsFlow ++ opcodeRowsLoad ++ opcodeRowsAlu ++ opcodeRowsMisc ++ opcodeRowsF

/-- The match rule (R87). -/
def OpcodeRow.matches (r : OpcodeRow) (w : Word) : Bool := w &&& r.mask == r.value

/-- A word is well-formed when it matches a row of the map; every other word is one of the unmatched words of R90. -/
def wordWellFormed (w : Word) : Bool := opcodeMap.any (fun r => r.matches w)

/-- A program image is well-formed when `loadProgram` accepts its length (R212, R213). -/
def imageWellFormed (bytes : List Byte) : Bool := 1 ≤ bytes.length && bytes.length ≤ Config.romMax

end Sys2Proof
end

