-- ==== Sys2Proof/Decode.lean ====
section
/-! DEFINITION. The fields of an instruction word (30_encoding.md R81), the decoder (R86, R87, R88), the encoder written
from the same encodings, and the byte order of a word (20_memory.md R54). -/

namespace Sys2Proof

/-- The word in two consecutive bytes: the byte at the lower address is bits 15:8 (R54). -/
def wordOfBytes (high low : Byte) : Word := high ++ low

/-- Bits 15:8 of a word, the byte that lies at the lower address (R54). -/
def highByte (w : Word) : Byte := w.extractLsb' 8 8

/-- Bits 7:0 of a word, the byte that lies at the higher address (R54). -/
def lowByte (w : Word) : Byte := w.extractLsb' 0 8

/-- The primary opcode group, `w[15:12]` (R81). -/
def fieldG (w : Word) : BitVec 4 := w.extractLsb' 12 4

/-- Field `X`, `w[11:8]`, a register index (R81). -/
def fieldX (w : Word) : Reg := (w.extractLsb' 8 4).toFin

/-- Field `Y`, `w[7:4]`, a register index (R81). -/
def fieldY (w : Word) : Reg := (w.extractLsb' 4 4).toFin

/-- Field `N`, `w[3:0]` (R81). -/
def fieldN (w : Word) : BitVec 4 := w.extractLsb' 0 4

/-- Field `NN`, `w[7:0]` (R81). -/
def fieldNN (w : Word) : Byte := w.extractLsb' 0 8

/-- Field `NNN`, `w[11:0]` (R81). -/
def fieldNNN (w : Word) : BitVec 12 := w.extractLsb' 0 12

/-- Why the decoder gives no instruction. -/
inductive Reject where
  /-- The word matches no row of the opcode map (R89, R90). -/
  | noRow (w : Word)
  deriving DecidableEq, Repr

/-- Group 0x0: only the exact words 0x00E0 and 0x00EE (R87, R90). -/
def decodeGroup0 (w : Word) : Except Reject Instr :=
  if w = 0x00E0#16 then .ok .cls
  else if w = 0x00EE#16 then .ok .ret
  else .error (.noRow w)

/-- Group 0x5: the low nibble is literally 0 (R87). -/
def decodeGroup5 (w : Word) : Except Reject Instr :=
  if fieldN w = 0x0#4 then .ok (.seReg (fieldX w) (fieldY w)) else .error (.noRow w)

/-- Group 0x9: the low nibble is literally 0 (R87). -/
def decodeGroup9 (w : Word) : Except Reject Instr :=
  if fieldN w = 0x0#4 then .ok (.sneReg (fieldX w) (fieldY w)) else .error (.noRow w)

/-- Group 0x8: secondary dispatch on `N` (R86). -/
def decodeGroup8 (w : Word) : Except Reject Instr :=
  match (fieldN w).toNat with
  | 0x0 => .ok (.ldReg (fieldX w) (fieldY w))
  | 0x1 => .ok (.or (fieldX w) (fieldY w))
  | 0x2 => .ok (.and (fieldX w) (fieldY w))
  | 0x3 => .ok (.xor (fieldX w) (fieldY w))
  | 0x4 => .ok (.addReg (fieldX w) (fieldY w))
  | 0x5 => .ok (.sub (fieldX w) (fieldY w))
  | 0x6 => .ok (.shr (fieldX w) (fieldY w))
  | 0x7 => .ok (.subn (fieldX w) (fieldY w))
  | 0xE => .ok (.shl (fieldX w) (fieldY w))
  | _ => .error (.noRow w)

/-- Group 0xE: secondary dispatch on `NN` (R86). -/
def decodeGroupE (w : Word) : Except Reject Instr :=
  match (fieldNN w).toNat with
  | 0x9E => .ok (.skp (fieldX w))
  | 0xA1 => .ok (.sknp (fieldX w))
  | _ => .error (.noRow w)

/-- Group 0xF: secondary dispatch on `NN` (R86). -/
def decodeGroupF (w : Word) : Except Reject Instr :=
  match (fieldNN w).toNat with
  | 0x07 => .ok (.ldVxDT (fieldX w))
  | 0x0A => .ok (.ldVxK (fieldX w))
  | 0x15 => .ok (.ldDTVx (fieldX w))
  | 0x18 => .ok (.ldSTVx (fieldX w))
  | 0x1E => .ok (.addI (fieldX w))
  | 0x29 => .ok (.ldF (fieldX w))
  | 0x33 => .ok (.ldB (fieldX w))
  | 0x55 => .ok (.storeRegs (fieldX w))
  | 0x65 => .ok (.loadRegs (fieldX w))
  | _ => .error (.noRow w)

/-- `decode(w)` (R84, R87): dispatch on the primary group, then on the literal digits of the row's pattern. Total on
every word; a word that matches no row is rejected by name. -/
def decode (w : Word) : Except Reject Instr :=
  match (fieldG w).toNat with
  | 0x0 => decodeGroup0 w
  | 0x1 => .ok (.jp (fieldNNN w))
  | 0x2 => .ok (.call (fieldNNN w))
  | 0x3 => .ok (.seByte (fieldX w) (fieldNN w))
  | 0x4 => .ok (.sneByte (fieldX w) (fieldNN w))
  | 0x5 => decodeGroup5 w
  | 0x6 => .ok (.ldByte (fieldX w) (fieldNN w))
  | 0x7 => .ok (.addByte (fieldX w) (fieldNN w))
  | 0x8 => decodeGroup8 w
  | 0x9 => decodeGroup9 w
  | 0xA => .ok (.ldI (fieldNNN w))
  | 0xB => .ok (.jpV0 (fieldNNN w))
  | 0xC => .ok (.rnd (fieldX w) (fieldNN w))
  | 0xD => .ok (.drw (fieldX w) (fieldY w) (fieldN w))
  | 0xE => decodeGroupE w
  | 0xF => decodeGroupF w
  | _ => .error (.noRow w)

/-- The decoder on the two bytes of an instruction as memory holds them, the lower address first (R80). -/
def decodeBytes (b0 b1 : Byte) : Except Reject Instr := decode (wordOfBytes b0 b1)

/-- A word of format A: group, NNN (R82). -/
def wordA (g : BitVec 4) (nnn : BitVec 12) : Word := g ++ nnn

/-- A word of format I: group, X, NN; also of format S with its literal function byte (R82). -/
def wordI (g : BitVec 4) (x : Reg) (nn : Byte) : Word := g ++ (BitVec.ofFin x : BitVec 4) ++ nn

/-- A word of format D: group, X, Y, N; also of format R with its literal function nibble (R82). -/
def wordD (g : BitVec 4) (x y : Reg) (n : BitVec 4) : Word :=
  g ++ (BitVec.ofFin x : BitVec 4) ++ (BitVec.ofFin y : BitVec 4) ++ n

/-- The word of an instruction, from the patterns of R88. -/
def encode : Instr → Word
  | .cls           => 0x00E0#16
  | .ret           => 0x00EE#16
  | .jp nnn        => wordA 0x1#4 nnn
  | .call nnn      => wordA 0x2#4 nnn
  | .seByte x nn   => wordI 0x3#4 x nn
  | .sneByte x nn  => wordI 0x4#4 x nn
  | .seReg x y     => wordD 0x5#4 x y 0x0#4
  | .ldByte x nn   => wordI 0x6#4 x nn
  | .addByte x nn  => wordI 0x7#4 x nn
  | .ldReg x y     => wordD 0x8#4 x y 0x0#4
  | .or x y        => wordD 0x8#4 x y 0x1#4
  | .and x y       => wordD 0x8#4 x y 0x2#4
  | .xor x y       => wordD 0x8#4 x y 0x3#4
  | .addReg x y    => wordD 0x8#4 x y 0x4#4
  | .sub x y       => wordD 0x8#4 x y 0x5#4
  | .shr x y       => wordD 0x8#4 x y 0x6#4
  | .subn x y      => wordD 0x8#4 x y 0x7#4
  | .shl x y       => wordD 0x8#4 x y 0xE#4
  | .sneReg x y    => wordD 0x9#4 x y 0x0#4
  | .ldI nnn       => wordA 0xA#4 nnn
  | .jpV0 nnn      => wordA 0xB#4 nnn
  | .rnd x nn      => wordI 0xC#4 x nn
  | .drw x y n     => wordD 0xD#4 x y n
  | .skp x         => wordI 0xE#4 x 0x9E#8
  | .sknp x        => wordI 0xE#4 x 0xA1#8
  | .ldVxDT x      => wordI 0xF#4 x 0x07#8
  | .ldVxK x       => wordI 0xF#4 x 0x0A#8
  | .ldDTVx x      => wordI 0xF#4 x 0x15#8
  | .ldSTVx x      => wordI 0xF#4 x 0x18#8
  | .addI x        => wordI 0xF#4 x 0x1E#8
  | .ldF x         => wordI 0xF#4 x 0x29#8
  | .ldB x         => wordI 0xF#4 x 0x33#8
  | .storeRegs x   => wordI 0xF#4 x 0x55#8
  | .loadRegs x    => wordI 0xF#4 x 0x65#8

/-- The instruction the decoder reads from a row's bits as spec/opcode_table.json numbers them. Every instruction is one
16-bit word (R80), so bits 15:8 lie at the lower address whatever `nbits` the table gives. -/
def decodeTableWord (_nbits w : Nat) : Option Instr :=
  match decodeBytes (highByte (BitVec.ofNat 16 w)) (lowByte (BitVec.ofNat 16 w)) with
  | .ok i => some i
  | .error _ => none

end Sys2Proof
end

