-- ==== Sys2Proof/Machine/ResetImage.lean ====
section
/-! DEFINITION. What memory holds after `reset` (10_state.md R35, 20_memory.md R58, R59): the font region and zeros.
FONT_BASE and FONT_TABLE are named parameters of the hardware (00_scope.md R6). -/

namespace Sys2Proof.Machine

/-- FONT_BASE (R59, R6; 90_conflicts.md C2, decision D11; log 11): where the font stands and what FX29 adds to. -/
def fontBase : Nat := 0x000

/-- Glyphs 0 to 7 of FONT_TABLE. PRESUMED (log 12): R59 gives these bytes "from general knowledge, not in source". -/
def fontLow : List Byte :=
  [ 0xF0, 0x90, 0x90, 0x90, 0xF0,   0x20, 0x60, 0x20, 0x20, 0x70,
    0xF0, 0x10, 0xF0, 0x80, 0xF0,   0xF0, 0x10, 0xF0, 0x10, 0xF0,
    0x90, 0x90, 0xF0, 0x10, 0x10,   0xF0, 0x80, 0xF0, 0x10, 0xF0,
    0xF0, 0x80, 0xF0, 0x90, 0xF0,   0xF0, 0x10, 0x20, 0x40, 0x40 ]

/-- Glyphs 8 to F of FONT_TABLE. PRESUMED (log 12). -/
def fontHigh : List Byte :=
  [ 0xF0, 0x90, 0xF0, 0x90, 0xF0,   0xF0, 0x90, 0xF0, 0x10, 0xF0,
    0xF0, 0x90, 0xF0, 0x90, 0x90,   0xE0, 0x90, 0xE0, 0x90, 0xE0,
    0xF0, 0x80, 0x80, 0x80, 0xF0,   0xE0, 0x90, 0x90, 0x90, 0xE0,
    0xF0, 0x80, 0xF0, 0x80, 0xF0,   0xF0, 0x80, 0xF0, 0x80, 0x80 ]

/-- FONT_TABLE (R59): 16 glyphs of 5 bytes, digit 0 first, top row first. PRESUMED (log 12). -/
def fontTable : List Byte := fontLow ++ fontHigh

/-- The byte `reset` leaves at an address (R35): FONT_TABLE from FONT_BASE on, 0 everywhere else. It is also what an
address that `Memory` does not list reads as (log 25). -/
def resetByte (a : Nat) : Byte :=
  if fontBase ≤ a ∧ a < fontBase + 80 then fontTable.getD (a - fontBase) 0 else 0

end Sys2Proof.Machine
end

