-- ==== Sys2Proof/Machine/State.lean ====
section
/-! DEFINITION. The state of the core (10_state.md R20), the operations the host schedules, their outputs, and the state
after `reset` (R39). Everything is plain data. -/

namespace Sys2Proof.Machine

/-- Reasons a step could stop with a fault. The hardware has none (60_exceptions.md R180, R185: no event "stops the core";
R231: "every state has a next `step`"), so the type has no constructor. -/
inductive Fault where
  deriving DecidableEq, Repr

/-- Reasons the model could give no meaning. -/
inductive Refusal where
  /-- Raised by nothing in this model: every row of the opcode table has its meaning. It would be safe: a machine
  that stops proves nothing false. -/
  | notModelled (mnemonic : String)
  deriving DecidableEq, Repr

/-- A diagnostic event, the output of a `step` (R180, R184). The payloads are the spec's (decision D15, log 15). -/
inductive Diagnostic where
  /-- Code 1 (R181): the word `w` fetched from `a` matches no row. -/
  | unknownInstruction (w a : Word)
  /-- Code 2 (R182): the `CALL` at `a` found 16 entries on the stack. -/
  | stackOverflow (a : Word)
  /-- Code 3 (R183): the `RET` at `a` found the stack empty. -/
  | stackUnderflow (a : Word)
  deriving DecidableEq, Repr

/-- The errors of `loadProgram` (R184 codes 4 and 5, R213). -/
inductive LoadError where
  /-- Code 4: the image has no byte. -/
  | romEmpty
  /-- Code 5: the image has more than 3584 bytes. -/
  | romTooLarge
  deriving DecidableEq, Repr

/-- The atomic operations on the core (00_scope.md R5). -/
inductive HostOp where
  /-- `reset` (R210). -/
  | reset
  /-- `loadProgram(bytes)` (R212, R213). -/
  | loadProgram (bytes : List Byte)
  /-- `step(rnd)` (R84): one fetch-decode-execute cycle with its random input. -/
  | step (rnd : Byte)
  /-- `tick` (R191). -/
  | tick
  /-- `setKey(k, b)` (R218); a `k` outside 0..15 is no operation of the interface. -/
  | setKey (k : Key) (b : Bool)
  /-- `clearRedraw` (R219). -/
  | clearRedraw
  /-- `readFramebuffer` (R195, R219). -/
  | readFramebuffer
  /-- `readRedraw` (R219). -/
  | readRedraw
  deriving DecidableEq, Repr

/-- The framebuffer, row-major (R28, R150): 32 rows of 64 one-bit cells; cell `p` of R28 is row `p / 64`, column `p % 64`. -/
abbrev Framebuffer := Vector (Vector Bool 64) 32

/-- What an operation outputs (R5). -/
inductive Output where
  /-- The operation yields nothing: `reset`, `setKey`, `clearRedraw`, and a `step` without a diagnostic. -/
  | none
  /-- A `step` raised a diagnostic (R180). -/
  | diagnostic (d : Diagnostic)
  /-- The `tone_request` output of a `tick` (R193). -/
  | toneRequest (b : Bool)
  /-- `loadProgram` succeeded (R212). -/
  | loaded
  /-- `loadProgram` returned an error (R213). -/
  | loadFailed (e : LoadError)
  /-- The cells `readFramebuffer` returned (R195). -/
  | framebuffer (cells : Framebuffer)
  /-- The flag `readRedraw` returned (R219). -/
  | redraw (b : Bool)
  deriving DecidableEq, Repr

/-- Memory (20_memory.md R50) as a list of cells in one canonical form (`Memory.wf`): an address it does not list reads as
`resetByte` (log 25). -/
abbrev Memory := List Host.Cell

/-- The canonical form: addresses strictly rising, inside the 4096 cells, and no cell listed with the value it has
unlisted. Equal memories are then equal lists. -/
abbrev Memory.wf (m : Memory) : Prop :=
  m.Pairwise (fun c d => c.1 < d.1) ∧ ∀ c ∈ m, c.1 < Config.memSize ∧ c.2 ≠ resetByte c.1

/-- The state: the eleven elements of R20, then the model's own fields, which hold the inputs and the output of the
operations (log 8, log 17, log 23). -/
structure State where
  /-- Memory (R35, R50). -/
  mem      : Memory
  /-- The general registers V0..VF (R21, R22). -/
  V        : Vector Byte 16
  /-- The index register (R25). -/
  I        : Word
  /-- The program counter (R24). -/
  pc       : Word
  /-- The call stack's entries (R26). -/
  stack    : Vector Word 16
  /-- The stack pointer, an integer 0..16 (R27). -/
  sp       : Fin 17
  /-- The framebuffer (R28). -/
  fb       : Framebuffer
  /-- The delay timer (R29). -/
  DT       : Byte
  /-- The sound timer (R30). -/
  ST       : Byte
  /-- The key state (R31). -/
  key      : Vector Bool 16
  /-- The redraw flag (R32). -/
  redraw   : Bool
  /-- Model's own: the random input of the `step` in progress (R160). -/
  rnd      : Byte
  /-- Model's own: how many random inputs were taken from `Config.randomByte`. -/
  draws    : Nat
  /-- Model's own: the host operations to come, the next one first (R217). -/
  schedule : List HostOp
  /-- Model's own: the output of the operation performed last. -/
  out      : Output
  deriving DecidableEq, Repr

/-- The machine right after `reset` (R39). The last four fields are the model's own (DESIGN CHOICE, log 24). -/
def State.reset : State where
  mem      := []
  V        := Vector.replicate 16 0
  I        := 0
  pc       := Config.pcReset
  stack    := Vector.replicate 16 0
  sp       := 0
  fb       := Vector.replicate 32 (Vector.replicate 64 false)
  DT       := 0
  ST       := 0
  key      := Vector.replicate 16 false
  redraw   := true
  rnd      := 0
  draws    := 0
  schedule := []
  out      := .none

end Sys2Proof.Machine
end

