-- ==== Sys2Proof/Machine/Ops.lean ====
section
/-! DEFINITION. The named operations over the state: registers, memory, call stack, framebuffer cells, diagnostics and
instruction fetch. Each element of state is read and written here and nowhere else. -/

namespace Sys2Proof.Machine

/-! ### Registers -/

/-- `V[x]` (R9, R21). -/
def State.v (s : State) (x : Reg) : Byte := s.V[x.val]

/-- `V[x] <- b` (R9). -/
def State.setV (s : State) (x : Reg) (b : Byte) : State := { s with V := s.V.set x.val b }

/-- `I <- w` (R25). -/
def State.setI (s : State) (w : Word) : State := { s with I := w }

/-- `pc <- w` (R24): not masked when written. -/
def State.setPc (s : State) (w : Word) : State := { s with pc := w }

/-- `DT <- b` (R29). -/
def State.setDT (s : State) (b : Byte) : State := { s with DT := b }

/-- `ST <- b` (R30). -/
def State.setST (s : State) (b : Byte) : State := { s with ST := b }

/-- `redraw <- b` (R32). -/
def State.setRedraw (s : State) (b : Bool) : State := { s with redraw := b }

/-- `key[k]` (R31). -/
def State.keyAt (s : State) (k : Key) : Bool := s.key[k.val]

/-- `key[k] <- b` (R218). -/
def State.setKeyAt (s : State) (k : Key) (b : Bool) : State := { s with key := s.key.set k.val b }

/-- The operation's output (R5). -/
def State.setOut (s : State) (o : Output) : State := { s with out := o }

/-- The random input of the `step` in progress (R160). -/
def State.setRnd (s : State) (r : Byte) : State := { s with rnd := r }

/-- The operations still to come (R217). -/
def State.setSchedule (s : State) (ops : List HostOp) : State := { s with schedule := ops }

/-- One more random input taken from the free value (log 8). -/
def State.countDraw (s : State) : State := { s with draws := s.draws + 1 }

/-! ### Memory -/

/-- The byte at a listed or unlisted address. -/
def cellGet : Memory → Nat → Byte
  | [], a => resetByte a
  | (b, v) :: m, a => if a = b then v else cellGet m a

/-- The list without any cell at address `a`. -/
def cellErase (m : Memory) (a : Nat) : Memory := m.filter (fun c => c.1 != a)

/-- The list with a cell at `a` placed before the first higher address. -/
def cellInsert : Memory → Nat → Byte → Memory
  | [], a, v => [(a, v)]
  | (b, u) :: m, a, v => if a < b then (a, v) :: (b, u) :: m else (b, u) :: cellInsert m a v

/-- Put a byte at an address, keeping the canonical form: a cell is listed only while it differs from `resetByte`. -/
def cellPut (m : Memory) (a : Nat) (v : Byte) : Memory :=
  if v = resetByte a then cellErase m a else cellInsert (cellErase m a) a v

/-- `MemRead(addr, 1)` (R10, R52): total, the address reduced modulo 4096. -/
def State.memRead (s : State) (addr : Nat) : Byte := cellGet s.mem (addr % Config.memSize)

/-- `MemWrite(addr, 1, v)` (R10, R52): total, the address reduced modulo 4096. -/
def State.memWrite (s : State) (addr : Nat) (v : Byte) : State :=
  { s with mem := cellPut s.mem (addr % Config.memSize) v }

/-- `mem[a + i] <- bytes[i]` for every `i` (R212), in ascending order. -/
def State.memWriteAll (s : State) (a : Nat) : List Byte → State
  | [] => s
  | b :: bs => (s.memWrite a b).memWriteAll (a + 1) bs

/-- `MemRead(addr, 2)`, used by instruction fetch only (R10, R54): the byte at the lower address in bits 15:8; each of the
two addresses is reduced on its own (R51). -/
def State.fetchWord (s : State) (addr : Nat) : Word := wordOfBytes (s.memRead addr) (s.memRead (addr + 1))

/-- The two bytes of `w` stored where `fetchWord addr` reads them. -/
def State.placeWord (s : State) (addr : Nat) (w : Word) : State :=
  (s.memWrite addr (highByte w)).memWrite (addr + 1) (lowByte w)

/-! ### Call stack -/

/-- `stack[j]` (R26). -/
def State.stackAt (s : State) (j : Fin 16) : Word := s.stack[j.val]

/-- `stack[sp] <- w; sp <- sp + 1` (R112), or nothing to answer when all 16 entries are held. -/
def State.push (s : State) (w : Word) : Option State :=
  if h : s.sp.val < 16 then
    some { s with stack := s.stack.set s.sp.val w, sp := ⟨s.sp.val + 1, by omega⟩ }
  else none

/-- `sp <- sp − 1` and the entry then at `stack[sp]` (R110), or nothing to answer when no entry is held. The entry is
not erased (R26). -/
def State.pop (s : State) : Option (Word × State) :=
  if h : 0 < s.sp.val then
    some (s.stackAt ⟨s.sp.val - 1, by omega⟩, { s with sp := ⟨s.sp.val - 1, by omega⟩ })
  else none

/-! ### Framebuffer cells -/

/-- Pixel (column `x`, row `y`), `fb[y × 64 + x]` (R28, R150). -/
def State.pixel (s : State) (x : Fin 64) (y : Fin 32) : Bool := (s.fb[y.val])[x.val]

/-- Pixel (column `x`, row `y`) `<- b`. -/
def State.setPixel (s : State) (x : Fin 64) (y : Fin 32) (b : Bool) : State :=
  { s with fb := s.fb.set y.val ((s.fb[y.val]).set x.val b) }

/-- `fb[p] <- 0` for every `p` (R151). -/
def State.clearPixels (s : State) : State :=
  { s with fb := Vector.replicate 32 (Vector.replicate 64 false) }

/-! ### Diagnostics

`raise` is what this hardware has in place of an exception (R180): nothing is saved, no mode changes and control is not
transferred (R188), so there is no entry and no return (R189). -/

/-- The address of the instruction in execution: during execution `pc` holds it plus 2 modulo 65536 (R85). -/
def State.instrAddr (s : State) : Word := s.pc - 2

/-- `raise d` (R10, R180): the event is the output of the `step`; nothing else changes. -/
def State.raise (s : State) (d : Diagnostic) : State := s.setOut (.diagnostic d)

end Sys2Proof.Machine
end

