-- ==== Sys2Proof/Machine/Operands.lean ====
section
/-! DEFINITION. The operand forms the instruction rules share: the address through `I`, the key a register names, the
glyph address, the skip. -/

namespace Sys2Proof.Machine

/-- The address of an access at offset `k` from `I` (R51); `memRead` and `memWrite` reduce it modulo 4096. -/
def State.dataAddr (s : State) (k : Nat) : Nat := s.I.toNat + k

/-- The key a register value names: its low 4 bits (R161, decision D7; log 7). -/
def keyIndex (b : Byte) : Key := Fin.ofNat 16 b.toNat

/-- The least pressed key (R164): scan 0 to 15 in ascending order, the first hit wins. -/
def State.lowestKey (s : State) : Option Key := (List.finRange 16).find? (fun k => s.keyAt k)

/-- The glyph address `FONT_BASE + 5 × v` (R142), with the whole 8-bit value (90_conflicts.md C3; log 11). -/
def glyphAddr (b : Byte) : Word := BitVec.ofNat 16 (fontBase + 5 * b.toNat)

/-- A skip (R85): `pc <- (pc + 2) mod 65536` when the condition holds, else nothing. -/
def State.skipIf (s : State) (c : Bool) : State := if c then s.setPc (s.pc + 2) else s

end Sys2Proof.Machine
end

