-- ==== Sys2Proof/Machine/Flags.lean ====
section
/-! DEFINITION. Every flag computation of the ALU (10_state.md R23, 41_alu.md R134) and the two statement orders in which
a flag-writing instruction runs (00_scope.md R11). A flag write replaces all 8 bits of VF with 0 or 1 (decision D21). -/

namespace Sys2Proof.Machine

/-- A flag as the byte written into VF. -/
def flagByte (b : Bool) : Byte := if b then 1 else 0

/-- Carry (R126): `b > 255 − a`, which is `a + b > 255`. -/
def carryFlag (a b : Byte) : Byte := flagByte (decide (b.toNat > 255 - a.toNat))

/-- Not-borrow (R127): 1 at equality. -/
def notBorrowFlag (a b : Byte) : Byte := flagByte (decide (a.toNat ≥ b.toNat))

/-- The flag of 8XY7 (R129): strictly greater, 0 at equality (93_implementation_defined.md U3; log 28). -/
def strictFlag (a b : Byte) : Byte := flagByte (decide (b.toNat > a.toNat))

/-- The flag of the logic operations (R123 to R125): always 0. -/
def clearedFlag (_result : Byte) : Byte := 0

/-- The flag of 8XY6 (R128): bit 0 of the value just written. -/
def bit0Flag (result : Byte) : Byte := result &&& 1

/-- The flag of 8XYE (R130): bit 7 of the value just written. -/
def bit7Flag (result : Byte) : Byte := result >>> 7

/-- `VF <- flag(V[X], V[Y]); V[X] <- op(V[X], V[Y])` (R126, R127, R129): the second statement reads the registers again, so
it sees the new VF where `x` or `y` is 15 (R11, decision D2; log 2). -/
def State.flagFirst (s : State) (flag op : Byte → Byte → Byte) (x y : Reg) : State :=
  let s1 := s.setV VF (flag (s.v x) (s.v y))
  s1.setV x (op (s1.v x) (s1.v y))

/-- `V[X] <- r; VF <- flag(V[X])` (R123 to R125, R128, R130): the flag is taken from the value just written, so with
`x = 15` the result is lost (R11, decision D2; log 2). -/
def State.resultFirst (s : State) (flag : Byte → Byte) (x : Reg) (r : Byte) : State :=
  let s1 := s.setV x r
  s1.setV VF (flag (s1.v x))

end Sys2Proof.Machine
end

