-- ==== Sys2Proof/Machine/Alu.lean ====
section
/-! DEFINITION. Register loads and the ALU (41_alu.md R120 to R130). None of these writes `pc`, touches memory or raises a
diagnostic. -/

namespace Sys2Proof.Machine

/-- 6XNN `LD Vx, byte` (R120). -/
def execLdByte (x : Reg) (nn : Byte) (s : State) : Host.Outcome State Fault Refusal :=
  .next (s.setV x nn)

/-- 7XNN `ADD Vx, byte` (R121): modulo 256, VF untouched. -/
def execAddByte (x : Reg) (nn : Byte) (s : State) : Host.Outcome State Fault Refusal :=
  .next (s.setV x (s.v x + nn))

/-- 8XY0 `LD Vx, Vy` (R122). -/
def execLdReg (x y : Reg) (s : State) : Host.Outcome State Fault Refusal :=
  .next (s.setV x (s.v y))

/-- 8XY1 `OR Vx, Vy` (R123): VF is cleared after the result is written. -/
def execOr (x y : Reg) (s : State) : Host.Outcome State Fault Refusal :=
  .next (s.resultFirst clearedFlag x (s.v x ||| s.v y))

/-- 8XY2 `AND Vx, Vy` (R124): VF is cleared after the result is written. -/
def execAnd (x y : Reg) (s : State) : Host.Outcome State Fault Refusal :=
  .next (s.resultFirst clearedFlag x (s.v x &&& s.v y))

/-- 8XY3 `XOR Vx, Vy` (R125): VF is cleared after the result is written. -/
def execXor (x y : Reg) (s : State) : Host.Outcome State Fault Refusal :=
  .next (s.resultFirst clearedFlag x (s.v x ^^^ s.v y))

/-- 8XY4 `ADD Vx, Vy` (R126): the carry is written before the sum. -/
def execAddReg (x y : Reg) (s : State) : Host.Outcome State Fault Refusal :=
  .next (s.flagFirst carryFlag (fun a b => a + b) x y)

/-- 8XY5 `SUB Vx, Vy` (R127): the not-borrow flag is written before the difference. -/
def execSub (x y : Reg) (s : State) : Host.Outcome State Fault Refusal :=
  .next (s.flagFirst notBorrowFlag (fun a b => a - b) x y)

/-- 8XY6 `SHR Vx, Vy` (R128): `V[Y]` is shifted; VF is bit 0 of the shifted value (90_conflicts.md C4; log 27). -/
def execShr (x y : Reg) (s : State) : Host.Outcome State Fault Refusal :=
  .next (s.resultFirst bit0Flag x (s.v y >>> 1))

/-- 8XY7 `SUBN Vx, Vy` (R129): the strict flag is written before the difference. -/
def execSubn (x y : Reg) (s : State) : Host.Outcome State Fault Refusal :=
  .next (s.flagFirst strictFlag (fun a b => b - a) x y)

/-- 8XYE `SHL Vx, Vy` (R130): `V[Y]` is shifted; VF is bit 7 of the shifted value. -/
def execShl (x y : Reg) (s : State) : Host.Outcome State Fault Refusal :=
  .next (s.resultFirst bit7Flag x (s.v y <<< 1))

end Sys2Proof.Machine
end

