-- ==== Sys2Proof/Machine/Control.lean ====
section
/-! DEFINITION. Control transfer (40_control_flow.md R110 to R117). On entry `pc` holds the instruction's own address plus
2 (R85). -/

namespace Sys2Proof.Machine

/-- 00EE `RET` (R110). An empty stack is clamped and reported (decision D4; log 4). -/
def execRet (s : State) : Host.Outcome State Fault Refusal :=
  match s.pop with
  | some (w, s1) => .next (s1.setPc w)
  | none => .next (s.raise (.stackUnderflow s.instrAddr))

/-- 1NNN `JP addr` (R111). -/
def execJp (nnn : BitVec 12) (s : State) : Host.Outcome State Fault Refusal :=
  .next (s.setPc (zext16 nnn))

/-- 2NNN `CALL addr` (R112): the advanced `pc` is pushed. A full stack is clamped and reported (decision D3; log 3). -/
def execCall (nnn : BitVec 12) (s : State) : Host.Outcome State Fault Refusal :=
  match s.push s.pc with
  | some s1 => .next (s1.setPc (zext16 nnn))
  | none => .next (s.raise (.stackOverflow s.instrAddr))

/-- 3XNN `SE Vx, byte` (R113). -/
def execSeByte (x : Reg) (nn : Byte) (s : State) : Host.Outcome State Fault Refusal :=
  .next (s.skipIf (s.v x == nn))

/-- 4XNN `SNE Vx, byte` (R114). -/
def execSneByte (x : Reg) (nn : Byte) (s : State) : Host.Outcome State Fault Refusal :=
  .next (s.skipIf (s.v x != nn))

/-- 5XY0 `SE Vx, Vy` (R115). -/
def execSeReg (x y : Reg) (s : State) : Host.Outcome State Fault Refusal :=
  .next (s.skipIf (s.v x == s.v y))

/-- 9XY0 `SNE Vx, Vy` (R116). -/
def execSneReg (x y : Reg) (s : State) : Host.Outcome State Fault Refusal :=
  .next (s.skipIf (s.v x != s.v y))

/-- BNNN `JP V0, addr` (R117): always register 0; `pc` is not masked to 12 bits. -/
def execJpV0 (nnn : BitVec 12) (s : State) : Host.Outcome State Fault Refusal :=
  .next (s.setPc (zext16 (s.v 0) + zext16 nnn))

end Sys2Proof.Machine
end

