-- ==== Sys2Proof/Machine/Display.lean ====
section
/-! DEFINITION. The framebuffer instructions (43_display.md R150 to R152). -/

namespace Sys2Proof.Machine

/-- 00E0 `CLS` (R151). -/
def execCls (s : State) : Host.Outcome State Fault Refusal :=
  .next (s.clearPixels.setRedraw true)

/-- SPRITE_MSB_LEFT (R6, R150, decision D9): bit 7 of a sprite byte is column 0. PRESUMED (log 9). -/
def spriteMsbLeft : Bool := true

/-- The bit of a sprite byte that column `c` (0..7) shows (R150). -/
def spriteBit (b : Byte) (c : Nat) : Bool :=
  if spriteMsbLeft then b.getLsbD (7 - c) else b.getLsbD c

/-- One set sprite bit on pixel `(x, y)` (R152): a pixel that is on sets VF, then the pixel toggles. -/
def State.drawPixel (s : State) (x : Fin 64) (y : Fin 32) : State :=
  let s1 := if s.pixel x y then s.setV VF 1 else s
  s1.setPixel x y (!s1.pixel x y)

/-- The eight columns of one sprite row `b` (R152): column `c` lands on `((x0 + c) mod 64, y mod 32)`, each coordinate
wrapped on its own; a clear bit touches nothing. -/
def State.drawRow (s : State) (x0 y : Nat) (b : Byte) : State :=
  (List.range 8).foldl
    (fun t c => if spriteBit b c then t.drawPixel (Fin.ofNat 64 (x0 + c)) (Fin.ofNat 32 y) else t) s

/-- The `n` rows of a sprite at `(x0, y0)`, row `r` from `MemRead(I + r, 1)` (R152). -/
def State.drawSprite (s : State) (x0 y0 n : Nat) : State :=
  (List.range n).foldl (fun t r => t.drawRow x0 (y0 + r) (t.memRead (t.dataAddr r))) s

/-- DXYN `DRW Vx, Vy, nibble` (R152): the coordinates are latched before VF is cleared (decision D10; log 10); with
`n = 0` nothing is drawn (93_implementation_defined.md U17). -/
def execDrw (x y : Reg) (n : BitVec 4) (s : State) : Host.Outcome State Fault Refusal :=
  let x0 := (s.v x).toNat
  let y0 := (s.v y).toNat
  .next (((s.setV VF 0).drawSprite x0 y0 n.toNat).setRedraw true)

end Sys2Proof.Machine
end

