-- ==== Sys2Proof/Machine/Index.lean ====
section
/-! DEFINITION. The index register and the memory instructions (42_index_memory.md R140 to R145). Each byte address is
reduced modulo 4096 on its own (R51); no access fails (R52). -/

namespace Sys2Proof.Machine

/-- ANNN `LD I, addr` (R140). -/
def execLdI (nnn : BitVec 12) (s : State) : Host.Outcome State Fault Refusal :=
  .next (s.setI (zext16 nnn))

/-- FX1E `ADD I, Vx` (R141): modulo 65536, no flag (decision D6; log 6). -/
def execAddI (x : Reg) (s : State) : Host.Outcome State Fault Refusal :=
  .next (s.setI (s.I + zext16 (s.v x)))

/-- FX29 `LD F, Vx` (R142). -/
def execLdF (x : Reg) (s : State) : Host.Outcome State Fault Refusal :=
  .next (s.setI (glyphAddr (s.v x)))

/-- FX33 `LD B, Vx` (R143): hundreds, tens, ones at `I`, `I + 1`, `I + 2`. -/
def execLdB (x : Reg) (s : State) : Host.Outcome State Fault Refusal :=
  let t := (s.v x).toNat
  .next (((s.memWrite (s.dataAddr 0) (BitVec.ofNat 8 (t / 100))).memWrite (s.dataAddr 1)
    (BitVec.ofNat 8 ((t / 10) % 10))).memWrite (s.dataAddr 2) (BitVec.ofNat 8 (t % 10)))

/-- `for i in 0 .. n − 1: MemWrite(I + i, 1, V[i])` (R144). -/
def State.storeV (s : State) (n : Nat) : State :=
  (List.range n).foldl (fun t i => t.memWrite (t.dataAddr i) (t.v (Fin.ofNat 16 i))) s

/-- `for i in 0 .. n − 1: V[i] <- MemRead(I + i, 1)` (R145). -/
def State.loadV (s : State) (n : Nat) : State :=
  (List.range n).foldl (fun t i => t.setV (Fin.ofNat 16 i) (t.memRead (t.dataAddr i))) s

/-- `I <- (I + X + 1) mod 65536`, after the transfer of `X + 1` bytes (R144, R145; decision D6, log 6). -/
def State.advanceI (s : State) (x : Reg) : State := s.setI (s.I + BitVec.ofNat 16 (x.val + 1))

/-- FX55 `LD [I], Vx` (R144). -/
def execStoreRegs (x : Reg) (s : State) : Host.Outcome State Fault Refusal :=
  .next ((s.storeV (x.val + 1)).advanceI x)

/-- FX65 `LD Vx, [I]` (R145). -/
def execLoadRegs (x : Reg) (s : State) : Host.Outcome State Fault Refusal :=
  .next ((s.loadV (x.val + 1)).advanceI x)

end Sys2Proof.Machine
end

