-- ==== Sys2Proof/Machine/Input.lean ====
section
/-! DEFINITION. Random number, key and timer instructions (44_keys_timers_random.md R160 to R166). -/

namespace Sys2Proof.Machine

/-- CXNN `RND Vx, byte` (R160): the random input of this `step`, masked (decision D8; log 8). -/
def execRnd (x : Reg) (nn : Byte) (s : State) : Host.Outcome State Fault Refusal :=
  .next (s.setV x (s.rnd &&& nn))

/-- EX9E `SKP Vx` (R161). -/
def execSkp (x : Reg) (s : State) : Host.Outcome State Fault Refusal :=
  .next (s.skipIf (s.keyAt (keyIndex (s.v x))))

/-- EXA1 `SKNP Vx` (R162). -/
def execSknp (x : Reg) (s : State) : Host.Outcome State Fault Refusal :=
  .next (s.skipIf (!s.keyAt (keyIndex (s.v x))))

/-- FX07 `LD Vx, DT` (R163). -/
def execLdVxDT (x : Reg) (s : State) : Host.Outcome State Fault Refusal :=
  .next (s.setV x s.DT)

/-- FX0A `LD Vx, K` (R164): the least pressed key, else back to this instruction's own address. -/
def execLdVxK (x : Reg) (s : State) : Host.Outcome State Fault Refusal :=
  match s.lowestKey with
  | some k => .next (s.setV x (BitVec.ofNat 8 k.val))
  | none => .next (s.setPc (s.pc - 2))

/-- FX15 `LD DT, Vx` (R165). -/
def execLdDTVx (x : Reg) (s : State) : Host.Outcome State Fault Refusal :=
  .next (s.setDT (s.v x))

/-- FX18 `LD ST, Vx` (R166): emits nothing itself. -/
def execLdSTVx (x : Reg) (s : State) : Host.Outcome State Fault Refusal :=
  .next (s.setST (s.v x))

end Sys2Proof.Machine
end

