-- ==== Sys2Proof/Machine/HostOps.lean ====
section
/-! DEFINITION. The host's operations other than `step` (70_reset_and_hazards.md R210 to R219, 60_exceptions.md R191). Each is
atomic and yields one output. -/

namespace Sys2Proof.Machine

/-- `reset` (R210): every element of R20 at its reset value, from any state. The schedule, the random inputs and their
counter are the model's own and stay (log 24). -/
def doReset (s : State) : State :=
  { State.reset with rnd := s.rnd, draws := s.draws, schedule := s.schedule }

/-- `loadProgram(bytes)` (R212, R213): the image from 0x200 up and nothing else, or an error and no change. -/
def doLoadProgram (bytes : List Byte) (s : State) : State :=
  if bytes.length = 0 then s.setOut (.loadFailed .romEmpty)
  else if bytes.length > Config.romMax then s.setOut (.loadFailed .romTooLarge)
  else (s.memWriteAll Config.progBase bytes).setOut .loaded

/-- One timer's decrement in a `tick` (R191): a timer at 0 stays at 0. -/
def countDown (b : Byte) : Byte := if b.toNat > 0 then b - 1 else b

/-- `tick` (R191): both timers count down; the tone request is the 1-to-0 transition of `ST` (R193). -/
def doTick (s : State) : State :=
  ((s.setDT (countDown s.DT)).setST (countDown s.ST)).setOut (.toneRequest (s.ST == 1))

/-- `setKey(k, b)` (R218). -/
def doSetKey (k : Key) (b : Bool) (s : State) : State := (s.setKeyAt k b).setOut .none

/-- `clearRedraw` (R219). -/
def doClearRedraw (s : State) : State := (s.setRedraw false).setOut .none

/-- `readFramebuffer` (R195, R219): changes nothing. -/
def doReadFramebuffer (s : State) : State := s.setOut (.framebuffer s.fb)

/-- `readRedraw` (R219): changes nothing. -/
def doReadRedraw (s : State) : State := s.setOut (.redraw s.redraw)

end Sys2Proof.Machine
end

