-- ==== Sys2Proof/Machine/Cycle.lean ====
section
/-! DEFINITION. The fetch-decode-execute cycle (30_encoding.md R84) and the order of the operations
(70_reset_and_hazards.md R217). -/

namespace Sys2Proof.Machine

/-- The state in which the instruction fetched at `pc` executes: `pc` advanced by 2 modulo 65536 (R84, R85), the random
input of this `step` in place (R160), no output yet. -/
def State.enter (s : State) (rnd : Byte) : State := ((s.setPc (s.pc + 2)).setRnd rnd).setOut .none

/-- A word `w` fetched from `a` that matches no row (R89, R181): the event, and nothing else. -/
def unmatched (w a : Word) (s : State) : Host.Outcome State Fault Refusal :=
  .next (s.raise (.unknownInstruction w a))

/-- `step(rnd)` (R84): fetch at `pc`, advance, decode, execute. -/
def cycle (rnd : Byte) (s : State) : Host.Outcome State Fault Refusal :=
  match decode (s.fetchWord s.pc.toNat) with
  | .ok i => exec i (s.enter rnd)
  | .error _ => unmatched (s.fetchWord s.pc.toNat) s.pc (s.enter rnd)

/-- One operation of the host's interface (R5), run to completion (R12). -/
def operate (op : HostOp) (s : State) : Host.Outcome State Fault Refusal :=
  match op with
  | .reset => .next (doReset s)
  | .loadProgram bytes => .next (doLoadProgram bytes s)
  | .step rnd => cycle rnd s
  | .tick => .next (doTick s)
  | .setKey k b => .next (doSetKey k b s)
  | .clearRedraw => .next (doClearRedraw s)
  | .readFramebuffer => .next (doReadFramebuffer s)
  | .readRedraw => .next (doReadRedraw s)

/-- The next operation: the first of the schedule, taken off it; with nothing scheduled, a `step` whose random input is a
free value (R217, decisions D8 and D17; log 8, log 17). -/
def nextOperation (s : State) : Host.Outcome State Fault Refusal :=
  match s.schedule with
  | [] => cycle (Config.randomByte s.draws) s.countDraw
  | op :: ops => operate op (s.setSchedule ops)

/-- "The program has finished", the model's definition (R231 asks for one, decision D18; log 18): `pc` holds the address of
a 1NNN word whose NNN equals that address. It is a property of the state and stops nothing: the host goes on calling, and
later `tick`, `setKey` and `clearRedraw` still change their elements. It does not cover a program that idles in another
way, or one that the host merely ceases to step (log 18 lists these). -/
def State.finished (s : State) : Bool :=
  match decode (s.fetchWord s.pc.toNat) with
  | .ok (.jp nnn) => nnn.toNat == s.pc.toNat
  | _ => false

/-- Whether a scheduled operation is a `step`. -/
def HostOp.isStep : HostOp → Bool
  | .step _ => true
  | _ => false

/-- The schedule from its next `step` on: the operations that would come before an instruction are dropped. -/
def dropToStep (ops : List HostOp) : List HostOp := ops.dropWhile (fun op => !op.isStep)

end Sys2Proof.Machine
end

