-- ==== Sys2Proof/Machine/Step.lean ====
section
/-! DEFINITION. One step of the machine: the next atomic operation (00_scope.md R5, R12; log 17). -/

namespace Sys2Proof.Machine

/-- Perform the next operation. With an empty schedule, or one whose next operation is `step`, this is one
fetch-decode-execute cycle (R84). -/
def step (s : State) : Host.Outcome State Fault Refusal := nextOperation s

/-- `s` with the instruction word `w` stored where the next fetch reads it, and no other operation scheduled before that
fetch (log 26). Every instruction is 16 bits long (R80), so `nbits` plays no part. -/
def State.withFetchWord (s : State) (_nbits w : Nat) : State :=
  (s.placeWord s.pc.toNat (BitVec.ofNat 16 w)).setSchedule (dropToStep s.schedule)

end Sys2Proof.Machine
end

