-- ==== Sys2Proof/Safety.lean ====
section
/-! DEFINITION. The terms in which claims are made: what an outcome answers, what a frame is, the invariant, and what
counts as a quiet run. -/

namespace Sys2Proof.Machine

/-- The outcome is a next state, and `P` holds of it. -/
def Answers (o : Host.Outcome State Fault Refusal) (P : State → Prop) : Prop := ∃ t, o = .next t ∧ P t

/-- The smallest pieces of the state a claim can name: every cell, register, entry, pixel and key on its own. -/
inductive Element where
  /-- One memory cell (R50), read through `memRead`. -/
  | mem (a : Fin 4096)
  /-- One general register (R21). -/
  | V (x : Reg)
  /-- The index register (R25). -/
  | I
  /-- The program counter (R24). -/
  | pc
  /-- One stack entry (R26). -/
  | stack (j : Fin 16)
  /-- The stack pointer (R27). -/
  | sp
  /-- One framebuffer cell (R28), column `x`, row `y`. -/
  | fb (x : Fin 64) (y : Fin 32)
  /-- The delay timer (R29). -/
  | DT
  /-- The sound timer (R30). -/
  | ST
  /-- One key flag (R31). -/
  | key (k : Key)
  /-- The redraw flag (R32). -/
  | redraw
  /-- Model's own: the random input. -/
  | rnd
  /-- Model's own: the counter of free random inputs. -/
  | draws
  /-- Model's own: the operations to come. -/
  | schedule
  /-- Model's own: the output of the last operation. -/
  | out
  deriving DecidableEq, Repr

/-- Two states hold the same value in an element. -/
def Element.Agrees (s t : State) : Element → Prop
  | .mem a => t.memRead a.val = s.memRead a.val
  | .V x => t.v x = s.v x
  | .I => t.I = s.I
  | .pc => t.pc = s.pc
  | .stack j => t.stackAt j = s.stackAt j
  | .sp => t.sp = s.sp
  | .fb x y => t.pixel x y = s.pixel x y
  | .DT => t.DT = s.DT
  | .ST => t.ST = s.ST
  | .key k => t.keyAt k = s.keyAt k
  | .redraw => t.redraw = s.redraw
  | .rnd => t.rnd = s.rnd
  | .draws => t.draws = s.draws
  | .schedule => t.schedule = s.schedule
  | .out => t.out = s.out

/-- The frame: `t` holds in every element outside `changed` what `s` held. -/
def Frame (s t : State) (changed : Element → Prop) : Prop := ∀ e, ¬ changed e → e.Agrees s t

/-- The elements that are the model's own, outside the eleven of R20. -/
def Element.isModelOwn : Element → Prop
  | .rnd | .draws | .schedule | .out => True
  | _ => False

/-- The eleven elements of R20 are as they were: every cell, register, entry, pixel, key and flag. -/
def SameElements (s t : State) : Prop := Frame s t Element.isModelOwn

/-- Every element of R20 has the value R39 gives it after `reset`; the font region holds FONT_TABLE (log 12) from
0x000 (log 11), the rest of low memory is zero (log 19) and the keys are cleared (log 27). -/
def HoldsResetValues (s : State) : Prop :=
  (∀ a, a < 4096 → s.memRead a = if a < 80 then fontTable.getD a 0 else 0) ∧
  (∀ x, s.v x = 0) ∧ s.I = 0 ∧ s.pc = 0x200#16 ∧ (∀ j, s.stackAt j = 0) ∧ s.sp = 0 ∧
  (∀ x y, s.pixel x y = false) ∧ s.DT = 0 ∧ s.ST = 0 ∧ (∀ k, s.keyAt k = false) ∧ s.redraw = true

/-- The memory cells an access of `n` bytes through `I` touches (R51): offset `k` is the cell `(I + k) mod 4096`, with the
address the meanings use. -/
def IsDataByte (s : State) (n : Nat) (e : Element) : Prop :=
  ∃ k, k < n ∧ ∃ a : Fin 4096, e = .mem a ∧ a.val = s.dataAddr k % 4096

/-- Pixel `(p, q)` is the target of a set bit of the `n`-row sprite at `I` drawn from `(x0, y0)` (R152, with R150's bit 7 as
column 0, log 9). -/
def SpriteHits (s : State) (x0 y0 n : Nat) (p : Fin 64) (q : Fin 32) : Prop :=
  ∃ r c, r < n ∧ c < 8 ∧ (s.memRead (s.dataAddr r)).getLsbD (7 - c) = true ∧
    p.val = (x0 + c) % 64 ∧ q.val = (y0 + r) % 32

/-- The general registers an instruction may write: its destination (R21), and VF for the instructions of R23. -/
def MayWriteV (r : Reg) : Instr → Prop
  | .ldByte x _ | .addByte x _ | .ldReg x _ | .rnd x _ | .ldVxDT x | .ldVxK x => r = x
  | .or x _ | .and x _ | .xor x _ | .addReg x _ | .sub x _ | .shr x _ | .subn x _ | .shl x _ => r = x ∨ r = VF
  | .drw _ _ _ => r = VF
  | .loadRegs x => r ≤ x
  | _ => False

/-- The instructions that may write `pc` beside the fetch advance (R24, R36): the jumps, the call and the return, the skips,
and the key wait, which takes the advance back. -/
def MayWritePc : Instr → Prop
  | .ret | .jp _ | .call _ | .jpV0 _ | .ldVxK _ => True
  | .seByte _ _ | .sneByte _ _ | .seReg _ _ | .sneReg _ _ | .skp _ | .sknp _ => True
  | _ => False

/-- The output of a `step` that fetched `w` from `a` with stack pointer `sp` (R187): at most one diagnostic, by its cause. -/
def stepOutput (w a : Word) (sp : Nat) : Output :=
  match decode w with
  | .error _ => .diagnostic (.unknownInstruction w a)
  | .ok .ret => if sp = 0 then .diagnostic (.stackUnderflow a) else .none
  | .ok (.call _) => if sp = 16 then .diagnostic (.stackOverflow a) else .none
  | .ok _ => .none

/-- The invariant: memory has its canonical form. Every other relation the hardware promises of its state (`0 ≤ sp ≤ 16`, R27)
holds by the field's type. -/
def Inv (s : State) : Prop := Memory.wf s.mem

/-- The operation performed last raised a diagnostic (R180). -/
def State.diagnosed (s : State) : Bool :=
  match s.out with
  | .diagnostic _ => true
  | _ => false

/-- A quiet run of `k` operations: none of them raises a diagnostic (R180: a model accumulates the outputs itself). It is
what a program's author can ask for; the hardware goes on after a diagnostic. -/
def quietFor : Nat → State → Bool
  | 0, _ => true
  | k + 1, s =>
    match step s with
    | .next t => !t.diagnosed && quietFor k t
    | _ => false

end Sys2Proof.Machine
end

