-- ==== Sys2Proof/Certificates/Slice0/Obligations.lean ====
section
/-! DEFINITION. The statements for the provers. Each docstring names the rules of spec/ it rests on; where a clause rests on
a decision the spec itself made, the log entry is named and the statement's basis is 'derived'. -/

open Sys2Proof Sys2Proof.Machine

/-! ### Encoding -/

/-- Decoding the word of an instruction gives the instruction back, every operand included (R81, R82, R88). -/
def Obligations.DecodeOfEncodeIsInstruction : Prop := ∀ i : Instr, decode (encode i) = .ok i

/-- A word that decodes is the word of its instruction: no bit of a decoded word is ignored (R87, decision D14, log 14). -/
def Obligations.EncodeOfDecodedIsWord : Prop := ∀ (w : Word) (i : Instr), decode w = .ok i → encode i = w

/-- The decoder accepts exactly the words that match a row of the opcode map by mask and value (R87, R88; D14, log 14). -/
def Obligations.DecodeAcceptsExactlyMappedWords : Prop :=
  ∀ w : Word, (∃ i, decode w = .ok i) ↔ wordWellFormed w = true

/-- "No word matches two rows (the patterns are pairwise disjoint)" (R87). -/
def Obligations.NoWordMatchesTwoRows : Prop :=
  ∀ (w : Word) (r q : OpcodeRow), r ∈ opcodeMap → q ∈ opcodeMap → r.matches w = true → q.matches w = true → r = q

/-- Words written out from the patterns of R88 decode to the instructions they stand for, one or more of each format. That
0x01E0 and 0x5121 are no instructions is the spec's choice of match rule (D14, log 14). -/
def Obligations.DecodedSampleWords : Prop :=
  decode 0x00E0#16 = .ok .cls ∧ decode 0x00EE#16 = .ok .ret ∧ decode 0x1208#16 = .ok (.jp 0x208#12) ∧
  decode 0x332A#16 = .ok (.seByte 3 0x2A#8) ∧ decode 0x812E#16 = .ok (.shl 1 2) ∧
  decode 0xD2F5#16 = .ok (.drw 2 15 5#4) ∧ decode 0xE29E#16 = .ok (.skp 2) ∧ decode 0xF465#16 = .ok (.loadRegs 4) ∧
  decode 0x01E0#16 = .error (.noRow 0x01E0#16) ∧ decode 0x5121#16 = .error (.noRow 0x5121#16)

/-! ### The step -/

/-- A machine step performs the first operation of the schedule, and with nothing scheduled a `step` whose random input is
the free value (R217; the model's choice, log 17 and log 8). -/
def Obligations.StepPerformsNextOperation : Prop :=
  ∀ s : State,
    (∀ op ops, s.schedule = op :: ops → step s = operate op (s.setSchedule ops)) ∧
    (s.schedule = [] → step s = operate (.step (Config.randomByte s.draws)) s.countDraw)

/-- A `step` whose word decodes is the execution of that instruction, in the state where `pc` has advanced by 2 modulo
65536 (R84, R85; D5, log 5), the random input is in place and nothing is output yet; nothing else is touched first. -/
def Obligations.StepRunsDecodedInstruction : Prop :=
  ∀ (s : State) (r : Byte) (i : Instr), decode (s.fetchWord s.pc.toNat) = .ok i →
    operate (.step r) s = exec i (s.enter r) ∧
    (s.enter r).pc.toNat = (s.pc.toNat + 2) % 65536 ∧ (s.enter r).rnd = r ∧ (s.enter r).out = .none ∧
    Frame s (s.enter r) (fun e => e = .pc ∨ e = .rnd ∨ e = .out)

/-- R54: "the byte at the lower address `pc` is bits 15:8 of the word, the byte at `pc + 1` is bits 7:0". -/
def Obligations.FetchIsBigEndian : Prop :=
  ∀ (s : State) (a : Nat), (s.fetchWord a).toNat = 256 * (s.memRead a).toNat + (s.memRead (a + 1)).toNat

/-- R89, R181: a word that matches no row raises the event and does nothing else but the advance of `pc`
(modulo 65536: D5, log 5; payload: D15, log 15). -/
def Obligations.UnmatchedWordOnlyAdvances : Prop :=
  ∀ (s : State) (r : Byte), wordWellFormed (s.fetchWord s.pc.toNat) = false →
    Answers (operate (.step r) s) (fun t =>
      t.pc.toNat = (s.pc.toNat + 2) % 65536 ∧
      t.out = .diagnostic (.unknownInstruction (s.fetchWord s.pc.toNat) s.pc) ∧
      Frame s t (fun e => e = .pc ∨ e = .rnd ∨ e = .out))

/-- `withFetchWord` places a word that the very next step runs (the model's own operation, log 26): the two bytes at `pc`
hold it, high byte first (R54), and the operations scheduled before the next `step` are dropped. The random input is the
one scheduled with that `step`, or, with none scheduled, the free value (log 8). -/
def Obligations.PlacedWordIsRun : Prop :=
  ∀ (s : State) (nbits w : Nat) (i : Instr), decode (BitVec.ofNat 16 w) = .ok i →
    ∃ (u : State) (r : Byte), step (s.withFetchWord nbits w) = exec i (u.enter r) ∧
      (u.memRead s.pc.toNat).toNat = w / 256 % 256 ∧ (u.memRead (s.pc.toNat + 1)).toNat = w % 256 ∧
      (∀ before r' after, (∀ op ∈ before, ∀ q, op ≠ .step q) → s.schedule = before ++ .step r' :: after →
        r = r' ∧ u.schedule = after ∧ u.draws = s.draws) ∧
      ((∀ op ∈ s.schedule, ∀ q, op ≠ .step q) →
        r = Config.randomByte s.draws ∧ u.schedule = [] ∧ u.draws = s.draws + 1) ∧
      Frame s u (fun e => e = .schedule ∨ e = .draws ∨
        ∃ a : Fin 4096, e = .mem a ∧ (a.val = s.pc.toNat % 4096 ∨ a.val = (s.pc.toNat + 1) % 4096))

/-- "`step` always completes" (R84), "every state has a next `step`" (R231), and so for every operation of the host. -/
def Obligations.EveryStateHasNextStep : Prop := ∀ s : State, ∃ t, step s = .next t

/-- R187: the output of a `step` is decided by its cause alone, and (R188) a `step` that raises a diagnostic has no
other effect than the advance of `pc` (D3, D4, D5, D15: logs 3, 4, 5, 15). -/
def Obligations.DiagnosticsHaveOneCauseAndNoOtherEffect : Prop :=
  ∀ (s : State) (r : Byte), Answers (operate (.step r) s) (fun t =>
    t.out = stepOutput (s.fetchWord s.pc.toNat) s.pc s.sp.val ∧
    (t.diagnosed = true → t.pc.toNat = (s.pc.toNat + 2) % 65536 ∧
      Frame s t (fun e => e = .pc ∨ e = .rnd ∨ e = .out)))

/-! ### The invariant and memory -/

/-- Every operation of the machine keeps memory in its canonical form (log 25). -/
def Obligations.StepKeepsMemoryCanonical : Prop := ∀ s t : State, Inv s → step s = .next t → Inv t

/-- Memory has its canonical form after reset (log 25). -/
def Obligations.ResetMemoryIsCanonical : Prop := Inv State.reset

/-- Two memories in canonical form that read alike at all 4096 addresses are the same data (log 25). -/
def Obligations.CanonicalMemoriesThatReadAlikeAreEqual : Prop :=
  ∀ m n : Memory, m.wf → n.wf → (∀ a, a < 4096 → cellGet m a = cellGet n a) → m = n

/-- R52, R51: a write changes the one cell its address reduces to, and a read returns the last value written. -/
def Obligations.MemoryWriteChangesOneCell : Prop :=
  ∀ (s : State) (a : Nat) (v : Byte),
    (∀ b, (s.memWrite a v).memRead b = if b % 4096 = a % 4096 then v else s.memRead b) ∧
    Frame s (s.memWrite a v) (fun e => ∃ c : Fin 4096, e = .mem c ∧ c.val = a % 4096)

/-! ### Reset, load, timers, keys, redraw -/

/-- R39: the value of every element of R20 after reset. Rests on the spec's decisions too: the font lies at 0x000 (D11,
log 11) and has the conventional bytes (D12, log 12), 0x050 to 0x1FF is zero (D19, log 19), the keys are cleared (C7,
log 27). -/
def Obligations.ResetStateValues : Prop := HoldsResetValues State.reset

/-- R210: `reset`, issued in any state, sets every element to its reset value and outputs nothing. The values rest on the
decisions named at ResetStateValues: the font's place (D11, log 11) and bytes (D12, log 12), the zero of 0x050 to 0x1FF
(D19, log 19) and the cleared keys (C7, log 27). -/
def Obligations.ResetOperationSetsEveryElement : Prop :=
  ∀ s : State, Answers (operate .reset s) (fun t => HoldsResetValues t ∧ t.out = .none)

/-- R212: an image of 1 to 3584 bytes lies at 0x200 upward, and nothing else changes. That this is so in every state, one
that has run included, is the spec's decision (D20, log 20). -/
def Obligations.LoadProgramPlacesImage : Prop :=
  ∀ (s : State) (bytes : List Byte), 1 ≤ bytes.length → bytes.length ≤ 3584 →
    Answers (operate (.loadProgram bytes) s) (fun t =>
      (∀ (i : Nat) (h : i < bytes.length), t.memRead (0x200 + i) = bytes[i]) ∧ t.out = .loaded ∧
      Frame s t (fun e => e = .out ∨
        ∃ a : Fin 4096, e = .mem a ∧ 0x200 ≤ a.val ∧ a.val < 0x200 + bytes.length))

/-- R213: an empty image and one of more than 3584 bytes are refused, and no state changes. -/
def Obligations.LoadProgramErrorsChangeNothing : Prop :=
  ∀ (s : State) (bytes : List Byte), bytes.length = 0 ∨ 3584 < bytes.length →
    Answers (operate (.loadProgram bytes) s) (fun t =>
      t.out = .loadFailed (if bytes.length = 0 then .romEmpty else .romTooLarge) ∧ Frame s t (fun e => e = .out))

/-- R191: `tick` counts both timers down to 0 and requests a tone exactly when `ST` goes from 1 to 0. -/
def Obligations.TickCountsDown : Prop :=
  ∀ s : State, Answers (operate .tick s) (fun t =>
    t.DT.toNat = s.DT.toNat - 1 ∧ t.ST.toNat = s.ST.toNat - 1 ∧
    t.out = .toneRequest (decide (s.ST.toNat = 1)) ∧
    Frame s t (fun e => e = .DT ∨ e = .ST ∨ e = .out))

/-- R192: "A value `n > 0` written to a timer reaches 0 after exactly `n` further `tick` operations", and it stays there. -/
def Obligations.TimersReachZeroAfterTheirValue : Prop :=
  ∀ (s : State) (k : Nat),
    (doTick^[k] s).DT.toNat = s.DT.toNat - k ∧ (doTick^[k] s).ST.toNat = s.ST.toNat - k ∧
    Frame s (doTick^[k] s) (fun e => e = .DT ∨ e = .ST ∨ e = .out)

/-- R193: "one write of `n ≥ 1` to `ST` yields exactly one request, `n` ticks later"; with `ST = 0` there is none. -/
def Obligations.OneToneRequestPerCount : Prop :=
  ∀ (s : State) (k : Nat), (doTick^[k + 1] s).out = .toneRequest (decide (s.ST.toNat = k + 1))

/-- R218: `setKey(k, b)` writes the one flag; "nothing else changes". -/
def Obligations.SetKeyWritesOneFlag : Prop :=
  ∀ (s : State) (k : Key) (b : Bool), Answers (operate (.setKey k b) s) (fun t =>
    t.keyAt k = b ∧ t.out = .none ∧ Frame s t (fun e => e = .key k ∨ e = .out))

/-- R219: `clearRedraw` clears the flag and nothing else; the two observations return what they name and change nothing. -/
def Obligations.ClearRedrawAndObservations : Prop :=
  ∀ s : State,
    Answers (operate .clearRedraw s) (fun t =>
      t.redraw = false ∧ t.out = .none ∧ Frame s t (fun e => e = .redraw ∨ e = .out)) ∧
    Answers (operate .readRedraw s) (fun t => t.out = .redraw s.redraw ∧ Frame s t (fun e => e = .out)) ∧
    Answers (operate .readFramebuffer s) (fun t => t.out = .framebuffer s.fb ∧ Frame s t (fun e => e = .out))

/-! ### Control transfer -/

/-- R110: `RET` pops the address, or, with the stack empty, reports and falls through (D4, log 4). The payload is the
instruction's own address, which is `pc − 2` during execution (log 29). -/
def Obligations.RetPopsOrReports : Prop :=
  ∀ s : State, Answers (exec .ret s) (fun t =>
    (s.sp.val = 0 ∧ t.out = .diagnostic (.stackUnderflow (s.pc - 2)) ∧ Frame s t (fun e => e = .out)) ∨
    (0 < s.sp.val ∧ t.sp.val + 1 = s.sp.val ∧ (∀ j : Fin 16, j.val + 1 = s.sp.val → t.pc = s.stackAt j) ∧
      Frame s t (fun e => e = .pc ∨ e = .sp)))

/-- R111: `JP` sets `pc` to the address, zero-extended, and changes nothing else. -/
def Obligations.JumpSetsPc : Prop :=
  ∀ (nnn : BitVec 12) (s : State), Answers (exec (.jp nnn) s) (fun t =>
    t.pc.toNat = nnn.toNat ∧ Frame s t (fun e => e = .pc))

/-- R112: `CALL` pushes the advanced `pc` and jumps, or, with the stack full, reports and falls through (D3, log 3). -/
def Obligations.CallPushesOrReports : Prop :=
  ∀ (nnn : BitVec 12) (s : State), Answers (exec (.call nnn) s) (fun t =>
    (s.sp.val = 16 ∧ t.out = .diagnostic (.stackOverflow (s.pc - 2)) ∧ Frame s t (fun e => e = .out)) ∨
    (s.sp.val < 16 ∧ t.sp.val = s.sp.val + 1 ∧ t.pc.toNat = nnn.toNat ∧
      (∀ j : Fin 16, j.val = s.sp.val → t.stackAt j = s.pc) ∧
      Frame s t (fun e => e = .pc ∨ e = .sp ∨ ∃ j : Fin 16, e = .stack j ∧ j.val = s.sp.val)))

/-- R110, R112: a `RET` after a `CALL` that was made resumes at the word after the call, with the stack pointer back. -/
def Obligations.ReturnUndoesCall : Prop :=
  ∀ (nnn : BitVec 12) (s : State), s.sp.val < 16 →
    Answers (exec (.call nnn) s) (fun t => Answers (exec .ret t) (fun u =>
      Frame s u (fun e => ∃ j : Fin 16, e = .stack j ∧ j.val = s.sp.val)))

/-- R113, R114: the skips on an immediate add 2 to `pc` (modulo 65536: D5, log 5) and do nothing else. -/
def Obligations.SkipsOnImmediate : Prop :=
  ∀ (x : Reg) (nn : Byte) (s : State),
    Answers (exec (.seByte x nn) s) (fun t =>
      t.pc.toNat = (if s.v x = nn then (s.pc.toNat + 2) % 65536 else s.pc.toNat) ∧ Frame s t (fun e => e = .pc)) ∧
    Answers (exec (.sneByte x nn) s) (fun t =>
      t.pc.toNat = (if s.v x = nn then s.pc.toNat else (s.pc.toNat + 2) % 65536) ∧ Frame s t (fun e => e = .pc))

/-- R115, R116: the skips on two registers add 2 to `pc` (modulo 65536: D5, log 5) and do nothing else. -/
def Obligations.SkipsOnRegisters : Prop :=
  ∀ (x y : Reg) (s : State),
    Answers (exec (.seReg x y) s) (fun t =>
      t.pc.toNat = (if s.v x = s.v y then (s.pc.toNat + 2) % 65536 else s.pc.toNat) ∧ Frame s t (fun e => e = .pc)) ∧
    Answers (exec (.sneReg x y) s) (fun t =>
      t.pc.toNat = (if s.v x = s.v y then s.pc.toNat else (s.pc.toNat + 2) % 65536) ∧ Frame s t (fun e => e = .pc))

/-- R117: `JP V0, addr` sets `pc` to the unreduced sum, which fits in 16 bits and is not masked to 12 (D5, log 5). -/
def Obligations.JumpWithOffset : Prop :=
  ∀ (nnn : BitVec 12) (s : State), Answers (exec (.jpV0 nnn) s) (fun t =>
    t.pc.toNat = (s.v 0).toNat + nnn.toNat ∧ Frame s t (fun e => e = .pc))

/-- R111, R231: a core at a jump to its own address has finished in the model's sense (`State.finished`, the model's choice,
log 18) and stays there: a `step` changes no element of R20; any operation but `reset` and `loadProgram` leaves it
finished and raises no diagnostic, and only the timers, a key or the redraw flag may still change; with nothing scheduled
no number of steps raises a diagnostic. -/
def Obligations.JumpToSelfIdlesQuietly : Prop :=
  ∀ (s : State) (nnn : BitVec 12), decode (s.fetchWord s.pc.toNat) = .ok (.jp nnn) → nnn.toNat = s.pc.toNat →
    s.finished = true ∧
    (∀ r, Answers (operate (.step r) s) (SameElements s)) ∧
    (∀ op, op ≠ .reset → (∀ bytes, op ≠ .loadProgram bytes) → Answers (operate op s) (fun t =>
      t.finished = true ∧ t.diagnosed = false ∧
      Frame s t (fun e => e = .DT ∨ e = .ST ∨ (∃ k, e = .key k) ∨ e = .redraw ∨ e = .rnd ∨ e = .out))) ∧
    (s.schedule = [] → Answers (step s) (SameElements s) ∧ ∀ k, quietFor k s = true)

/-! ### Loads and the ALU -/

/-- R120, R121, R122: the loads and the immediate add write `V[X]` and nothing else; VF only when it is `V[X]`. -/
def Obligations.RegisterLoadsAndImmediateAdd : Prop :=
  ∀ (x y : Reg) (nn : Byte) (s : State),
    Answers (exec (.ldByte x nn) s) (fun t => t.v x = nn ∧ Frame s t (fun e => e = .V x)) ∧
    Answers (exec (.addByte x nn) s) (fun t =>
      (t.v x).toNat = ((s.v x).toNat + nn.toNat) % 256 ∧ Frame s t (fun e => e = .V x)) ∧
    Answers (exec (.ldReg x y) s) (fun t => t.v x = s.v y ∧ Frame s t (fun e => e = .V x))

/-- R123, R124, R125: the logic operations write the result to `V[X]` and then clear VF, so with `X = 15` the result is lost
and with `Y = 15` the old VF is the operand. Statement order decides these two cases (R11, D2, log 2). -/
def Obligations.LogicOperationsClearFlag : Prop :=
  ∀ (x y : Reg) (s : State),
    Answers (exec (.or x y) s) (fun t => (x ≠ VF → t.v x = s.v x ||| s.v y) ∧ t.v VF = 0 ∧
      Frame s t (fun e => e = .V x ∨ e = .V VF)) ∧
    Answers (exec (.and x y) s) (fun t => (x ≠ VF → t.v x = s.v x &&& s.v y) ∧ t.v VF = 0 ∧
      Frame s t (fun e => e = .V x ∨ e = .V VF)) ∧
    Answers (exec (.xor x y) s) (fun t => (x ≠ VF → t.v x = s.v x ^^^ s.v y) ∧ t.v VF = 0 ∧
      Frame s t (fun e => e = .V x ∨ e = .V VF))

/-- R126: the carry goes to VF before the sum is formed, so a register that is VF is read again with the carry in it
(statement order R11, D2, log 2). -/
def Obligations.AddRegistersWithCarry : Prop :=
  ∀ (x y : Reg) (s : State) (a b c : Nat), a = (s.v x).toNat → b = (s.v y).toNat →
    c = (if a + b > 255 then 1 else 0) →
    Answers (exec (.addReg x y) s) (fun t =>
      (t.v x).toNat = ((if x = VF then c else a) + (if y = VF then c else b)) % 256 ∧
      (x ≠ VF → (t.v VF).toNat = c) ∧ Frame s t (fun e => e = .V x ∨ e = .V VF))

/-- R127: VF gets 1 when `V[X] ≥ V[Y]` before the difference is formed; a register that is VF is read again with the flag in
it (R11, D2, log 2). -/
def Obligations.SubtractWithNotBorrow : Prop :=
  ∀ (x y : Reg) (s : State) (a b f : Nat), a = (s.v x).toNat → b = (s.v y).toNat →
    f = (if a ≥ b then 1 else 0) →
    Answers (exec (.sub x y) s) (fun t =>
      (t.v x).toNat = ((if x = VF then f else a) + 256 - (if y = VF then f else b)) % 256 ∧
      (x ≠ VF → (t.v VF).toNat = f) ∧ Frame s t (fun e => e = .V x ∨ e = .V VF))

/-- R129: VF gets 1 when `V[Y] > V[X]`, 0 at equality (log 28), before the reversed difference is formed; a register that
is VF is read again with the flag in it (R11, D2, log 2). -/
def Obligations.ReverseSubtractWithStrictFlag : Prop :=
  ∀ (x y : Reg) (s : State) (a b f : Nat), a = (s.v x).toNat → b = (s.v y).toNat →
    f = (if b > a then 1 else 0) →
    Answers (exec (.subn x y) s) (fun t =>
      (t.v x).toNat = ((if y = VF then f else b) + 256 - (if x = VF then f else a)) % 256 ∧
      (x ≠ VF → (t.v VF).toNat = f) ∧ Frame s t (fun e => e = .V x ∨ e = .V VF))

/-- R128, R130: the shifts take `V[Y]`; VF gets bit 0 (SHR) or bit 7 (SHL) of the shifted value, which is bit 1 or bit 6
of the old `V[Y]`, not the bit shifted out (90_conflicts.md C4, log 27); with `X = 15` only that bit remains. -/
def Obligations.ShiftsTakeFlagFromResult : Prop :=
  ∀ (x y : Reg) (s : State),
    Answers (exec (.shr x y) s) (fun t =>
      (x ≠ VF → (t.v x).toNat = (s.v y).toNat / 2) ∧ (t.v VF).toNat = (s.v y).toNat / 2 % 2 ∧
      Frame s t (fun e => e = .V x ∨ e = .V VF)) ∧
    Answers (exec (.shl x y) s) (fun t =>
      (x ≠ VF → (t.v x).toNat = 2 * (s.v y).toNat % 256) ∧ (t.v VF).toNat = (s.v y).toNat / 64 % 2 ∧
      Frame s t (fun e => e = .V x ∨ e = .V VF))

/-- R21, R23: no instruction changes a register other than its destination and, for the flag-writing instructions, VF. -/
def Obligations.OnlyListedInstructionsWriteRegisters : Prop :=
  ∀ (i : Instr) (s t : State), exec i s = .next t → ∀ r : Reg, t.v r ≠ s.v r → MayWriteV r i

/-! ### The index register and memory instructions -/

/-- R140: `LD I, addr` loads the zero-extended literal. -/
def Obligations.LoadIndexLiteral : Prop :=
  ∀ (nnn : BitVec 12) (s : State), Answers (exec (.ldI nnn) s) (fun t =>
    t.I.toNat = nnn.toNat ∧ Frame s t (fun e => e = .I))

/-- R141: `ADD I, Vx` adds modulo 65536 (D6, log 6) and writes no flag. -/
def Obligations.AddToIndex : Prop :=
  ∀ (x : Reg) (s : State), Answers (exec (.addI x) s) (fun t =>
    t.I.toNat = (s.I.toNat + (s.v x).toNat) % 65536 ∧ Frame s t (fun e => e = .I))

/-- R142: `LD F, Vx` sets `I` to FONT_BASE plus five times the whole register, with no reduction (D11, log 11). -/
def Obligations.GlyphAddressOfRegister : Prop :=
  ∀ (x : Reg) (s : State), Answers (exec (.ldF x) s) (fun t =>
    t.I.toNat = fontBase + 5 * (s.v x).toNat ∧ Frame s t (fun e => e = .I))

/-- R143: `LD B, Vx` stores hundreds, tens and ones at `I`, `I + 1`, `I + 2`, each address wrapped on its own, and changes
nothing else. That `I` stays is the rule's silence taken literally (log 30), that no address is protected, the font
included, is the spec's decision (D13, log 13). -/
def Obligations.DecimalDigitsAreStored : Prop :=
  ∀ (x : Reg) (s : State), Answers (exec (.ldB x) s) (fun t =>
    (t.memRead (s.dataAddr 0)).toNat = (s.v x).toNat / 100 ∧
    (t.memRead (s.dataAddr 1)).toNat = (s.v x).toNat / 10 % 10 ∧
    (t.memRead (s.dataAddr 2)).toNat = (s.v x).toNat % 10 ∧
    Frame s t (IsDataByte s 3))

/-- R144: `LD [I], Vx` stores `V[0]` to `V[X]` from `I` on, each address wrapped on its own, and advances `I` by `X + 1`
(modulo 65536: D6, log 6). -/
def Obligations.RegistersAreStored : Prop :=
  ∀ (x : Reg) (s : State), Answers (exec (.storeRegs x) s) (fun t =>
    (∀ k : Reg, k ≤ x → t.memRead (s.dataAddr k.val) = s.v k) ∧
    t.I.toNat = (s.I.toNat + x.val + 1) % 65536 ∧
    Frame s t (fun e => IsDataByte s (x.val + 1) e ∨ e = .I))

/-- R145: `LD Vx, [I]` loads `V[0]` to `V[X]` from `I` on and advances `I` by `X + 1` (modulo 65536: D6, log 6); the
registers above `V[X]` and all of memory are unchanged. -/
def Obligations.RegistersAreLoaded : Prop :=
  ∀ (x : Reg) (s : State), Answers (exec (.loadRegs x) s) (fun t =>
    (∀ k : Reg, k ≤ x → t.v k = s.memRead (s.dataAddr k.val)) ∧
    t.I.toNat = (s.I.toNat + x.val + 1) % 65536 ∧
    Frame s t (fun e => (∃ k : Reg, k ≤ x ∧ e = .V k) ∨ e = .I))

/-! ### The framebuffer -/

/-- R151: `CLS` turns every pixel off and sets the redraw flag; nothing else changes. -/
def Obligations.ClearScreen : Prop :=
  ∀ s : State, Answers (exec .cls s) (fun t =>
    (∀ p q, t.pixel p q = false) ∧ t.redraw = true ∧
    Frame s t (fun e => (∃ p q, e = .fb p q) ∨ e = .redraw))

/-- R152: `DRW` inverts exactly the pixels the set sprite bits land on, each coordinate wrapped on its own; VF ends 1 when one
of them was on, else 0; the redraw flag is set; nothing else changes. The coordinates are those before VF is cleared
(D10, log 10), bit 7 is column 0 (D9, log 9). -/
def Obligations.DrawInvertsHitPixels : Prop :=
  ∀ (x y : Reg) (n : BitVec 4) (s : State), Answers (exec (.drw x y n) s) (fun t =>
    (∀ p q, SpriteHits s (s.v x).toNat (s.v y).toNat n.toNat p q → t.pixel p q = !s.pixel p q) ∧
    (∀ p q, ¬ SpriteHits s (s.v x).toNat (s.v y).toNat n.toNat p q → t.pixel p q = s.pixel p q) ∧
    (t.v VF = 0 ∨ t.v VF = 1) ∧
    (t.v VF = 1 ↔ ∃ p q, SpriteHits s (s.v x).toNat (s.v y).toNat n.toNat p q ∧ s.pixel p q = true) ∧
    t.redraw = true ∧
    Frame s t (fun e => (∃ p q, e = .fb p q) ∨ e = .V VF ∨ e = .redraw))

/-- R153 (a): drawing the same sprite twice restores the framebuffer, and VF after the second draw is 1 exactly when the first
turned a pixel on. -/
def Obligations.DrawTwiceRestoresFramebuffer : Prop :=
  ∀ (x y : Reg) (n : BitVec 4) (s : State), x ≠ VF → y ≠ VF →
    Answers (exec (.drw x y n) s) (fun t => Answers (exec (.drw x y n) t) (fun u =>
      (∀ p q, u.pixel p q = s.pixel p q) ∧
      (u.v VF = 1 ↔ ∃ p q, s.pixel p q = false ∧ t.pixel p q = true)))

/-- R153 (c): "the number of changed pixels equals the number of set bits in the `N` sprite bytes". -/
def Obligations.DrawChangesAsManyPixelsAsSetBits : Prop :=
  ∀ (x y : Reg) (n : BitVec 4) (s : State), Answers (exec (.drw x y n) s) (fun t =>
    (Finset.univ.filter (fun c : Fin 64 × Fin 32 => t.pixel c.1 c.2 ≠ s.pixel c.1 c.2)).card =
    (Finset.univ.filter (fun b : Fin 15 × Fin 8 =>
      b.1.val < n.toNat ∧ (s.memRead (s.dataAddr b.1.val)).getLsbD b.2.val = true)).card)

/-! ### Random number, keys, timers -/

/-- R160: `RND` masks the random input of its `step`, whatever that input is (D8, log 8); bits outside the mask are 0. -/
def Obligations.RandomInputIsMasked : Prop :=
  ∀ (x : Reg) (nn r : Byte) (s : State), Answers (exec (.rnd x nn) (s.setRnd r)) (fun t =>
    t.v x = r &&& nn ∧ t.v x &&& ~~~nn = 0 ∧ Frame (s.setRnd r) t (fun e => e = .V x))

/-- R160: "`rnd` is ignored by every other instruction". -/
def Obligations.RandomInputIsOtherwiseIgnored : Prop :=
  ∀ (i : Instr) (s t : State) (r : Byte), (∀ x nn, i ≠ .rnd x nn) → exec i s = .next t →
    exec i (s.setRnd r) = .next (t.setRnd r)

/-- R161, R162: the key skips look at the key named by the low 4 bits of `V[X]` (D7, log 7) and add 2 to `pc` (modulo 65536:
D5, log 5); nothing else changes, the key included. -/
def Obligations.SkipsOnKey : Prop :=
  ∀ (x : Reg) (k : Key) (s : State), k.val = (s.v x).toNat % 16 →
    Answers (exec (.skp x) s) (fun t =>
      t.pc.toNat = (if s.keyAt k = true then (s.pc.toNat + 2) % 65536 else s.pc.toNat) ∧
      Frame s t (fun e => e = .pc)) ∧
    Answers (exec (.sknp x) s) (fun t =>
      t.pc.toNat = (if s.keyAt k = true then s.pc.toNat else (s.pc.toNat + 2) % 65536) ∧
      Frame s t (fun e => e = .pc))

/-- R163, R165, R166: the timer instructions move one byte and change nothing else. -/
def Obligations.TimerRegistersAreMoved : Prop :=
  ∀ (x : Reg) (s : State),
    Answers (exec (.ldVxDT x) s) (fun t => t.v x = s.DT ∧ Frame s t (fun e => e = .V x)) ∧
    Answers (exec (.ldDTVx x) s) (fun t => t.DT = s.v x ∧ Frame s t (fun e => e = .DT)) ∧
    Answers (exec (.ldSTVx x) s) (fun t => t.ST = s.v x ∧ Frame s t (fun e => e = .ST))

/-- R164: with a key pressed `LD Vx, K` loads the least pressed key; with none it takes `pc` back by 2 (modulo 65536: D5,
log 5); in neither case does anything else change. -/
def Obligations.KeyWaitLoadsLeastKeyOrRollsBack : Prop :=
  ∀ (x : Reg) (s : State), Answers (exec (.ldVxK x) s) (fun t =>
    (∃ k : Key, s.keyAt k = true ∧ (∀ j, j < k → s.keyAt j = false) ∧ (t.v x).toNat = k.val ∧
      Frame s t (fun e => e = .V x)) ∨
    ((∀ k, s.keyAt k = false) ∧ t.pc.toNat = (s.pc.toNat + 65534) % 65536 ∧ Frame s t (fun e => e = .pc)))

/-- R164: a `step` at a key wait with no key pressed "ends with every state element equal to its value before the step". -/
def Obligations.KeyWaitStepIsIdle : Prop :=
  ∀ (s : State) (x : Reg) (r : Byte), decode (s.fetchWord s.pc.toNat) = .ok (.ldVxK x) →
    (∀ k, s.keyAt k = false) → Answers (operate (.step r) s) (fun t => SameElements s t ∧ t.out = .none)

/-! ### Rules of the whole machine -/

/-- R231 with R24: a `step` that changes no element of R20 is one of three: the program has finished (`State.finished`, the
model's definition, log 18), or it idles in a way that definition does not cover, at a BNNN whose sum is its own address
(R117) or at a key wait with no key pressed (R164). The advance of `pc` is modulo 65536 (D5, log 5). -/
def Obligations.OnlyIdleStepsChangeNothing : Prop :=
  ∀ (s : State) (r : Byte), Answers (operate (.step r) s) (fun t =>
    SameElements s t ↔
      s.finished = true ∨
      (∃ nnn, decode (s.fetchWord s.pc.toNat) = .ok (.jpV0 nnn) ∧ (s.v 0).toNat + nnn.toNat = s.pc.toNat) ∨
      (∃ x, decode (s.fetchWord s.pc.toNat) = .ok (.ldVxK x) ∧ ∀ k, s.keyAt k = false))

/-- R33, the column 'written by `step`', with R36 for `pc` and R21, R23 for `V`, and what no instruction writes: the key
state, the schedule and the random input; `redraw` can only be set. `pc` is here the advanced one that `exec` is given
(R85). -/
def Obligations.InstructionsWriteOnlyWhatTheyOwn : Prop :=
  ∀ (i : Instr) (s t : State), exec i s = .next t →
    t.key = s.key ∧ t.rnd = s.rnd ∧ t.draws = s.draws ∧ t.schedule = s.schedule ∧
    (t.pc ≠ s.pc → MayWritePc i) ∧
    (∀ r, t.v r ≠ s.v r → MayWriteV r i) ∧
    (t.out ≠ s.out → i = .ret ∨ ∃ a, i = .call a) ∧
    (t.mem ≠ s.mem → ∃ x, i = .ldB x ∨ i = .storeRegs x) ∧
    (t.fb ≠ s.fb → i = .cls ∨ ∃ x y n, i = .drw x y n) ∧
    (t.redraw ≠ s.redraw → t.redraw = true ∧ (i = .cls ∨ ∃ x y n, i = .drw x y n)) ∧
    (t.DT ≠ s.DT → ∃ x, i = .ldDTVx x) ∧ (t.ST ≠ s.ST → ∃ x, i = .ldSTVx x) ∧
    (t.I ≠ s.I → (∃ a, i = .ldI a) ∨ ∃ x, i = .addI x ∨ i = .ldF x ∨ i = .storeRegs x ∨ i = .loadRegs x) ∧
    (t.stack ≠ s.stack → ∃ a, i = .call a) ∧
    (t.sp ≠ s.sp → (i = .ret ∧ t.sp.val + 1 = s.sp.val) ∨ ((∃ a, i = .call a) ∧ t.sp.val = s.sp.val + 1))

/-- R30, R32: no instruction reads `ST` or `redraw`: two runs of one instruction that differ only there differ only there,
and even there only by what was put in, unless the instruction writes it: FX18 leaves the same `ST`, 00E0 and DXYN a set
`redraw`, in both runs. -/
def Obligations.SoundTimerAndRedrawAreUnobservable : Prop :=
  ∀ (i : Instr) (s t : State) (b : Byte) (c : Bool), exec i s = .next t →
    Answers (exec i ((s.setST b).setRedraw c)) (fun u =>
      Frame t u (fun e => e = .ST ∨ e = .redraw) ∧
      ((∃ x, i = .ldSTVx x) → u.ST = t.ST) ∧ ((∀ x, i ≠ .ldSTVx x) → u.ST = b) ∧
      ((i = .cls ∨ ∃ x y n, i = .drw x y n) → u.redraw = true ∧ t.redraw = true) ∧
      (i ≠ .cls → (∀ x y n, i ≠ .drw x y n) → u.redraw = c ∧ t.redraw = s.redraw))

/-- R191, R217: a `tick` before an instruction and a `tick` after it leave the same state, outputs apart, unless the instruction
is one of the three that access a timer. -/
def Obligations.TickCommutesWithOtherInstructions : Prop :=
  ∀ (i : Instr) (s : State), (∀ x, i ≠ .ldVxDT x ∧ i ≠ .ldDTVx x ∧ i ≠ .ldSTVx x) →
    Answers (exec i s) (fun t => Answers (exec i (doTick s)) (fun u => Frame (doTick t) u (fun e => e = .out)))
end

