-- ==== Sys2Proof/Laws/Decode.lean ====
section
/-! SUPPORT. The fields of a word built from its fields (30_encoding.md R81, R82). -/

namespace Sys2Proof

theorem append_toNat {m n : Nat} (a : BitVec m) (b : BitVec n) : (a ++ b).toNat = a.toNat * 2 ^ n + b.toNat := by
  rw [BitVec.toNat_append, ← Nat.shiftLeft_add_eq_or_of_lt b.isLt, Nat.shiftLeft_eq]

theorem wordA_toNat (g : BitVec 4) (nnn : BitVec 12) : (wordA g nnn).toNat = g.toNat * 4096 + nnn.toNat :=
  append_toNat g nnn

theorem wordI_toNat (g : BitVec 4) (x : Reg) (nn : Byte) :
    (wordI g x nn).toNat = g.toNat * 4096 + x.val * 256 + nn.toNat := by
  have h : (wordI g x nn).toNat = (g.toNat * 2 ^ 4 + x.val) * 2 ^ 8 + nn.toNat := by
    rw [wordI, append_toNat, append_toNat]
    rfl
  rw [h]
  ring

theorem wordD_toNat (g : BitVec 4) (x y : Reg) (n : BitVec 4) :
    (wordD g x y n).toNat = g.toNat * 4096 + x.val * 256 + y.val * 16 + n.toNat := by
  have h : (wordD g x y n).toNat = ((g.toNat * 2 ^ 4 + x.val) * 2 ^ 4 + y.val) * 2 ^ 4 + n.toNat := by
    rw [wordD, append_toNat, append_toNat, append_toNat]
    rfl
  rw [h]
  ring

/-! ### Fields as numbers -/

theorem fieldG_toNat (w : Word) : (fieldG w).toNat = w.toNat / 4096 := by
  have := w.isLt
  simp only [fieldG, BitVec.extractLsb'_toNat, Nat.shiftRight_eq_div_pow]
  omega

theorem fieldX_val (w : Word) : (fieldX w).val = w.toNat / 256 % 16 := by
  simp [fieldX, Nat.shiftRight_eq_div_pow]

theorem fieldY_val (w : Word) : (fieldY w).val = w.toNat / 16 % 16 := by
  simp [fieldY, Nat.shiftRight_eq_div_pow]

theorem fieldN_toNat (w : Word) : (fieldN w).toNat = w.toNat % 16 := by
  simp [fieldN]

theorem fieldNN_toNat (w : Word) : (fieldNN w).toNat = w.toNat % 256 := by
  simp [fieldNN]

theorem fieldNNN_toNat (w : Word) : (fieldNNN w).toNat = w.toNat % 4096 := by
  simp [fieldNNN]

/-! ### Fields of a built word -/

section
variable (g : BitVec 4) (x y : Reg) (n : BitVec 4) (nn : Byte) (nnn : BitVec 12)

@[simp] theorem fieldG_wordA : fieldG (wordA g nnn) = g := by
  apply BitVec.eq_of_toNat_eq
  have := nnn.isLt
  rw [fieldG_toNat, wordA_toNat]
  omega

@[simp] theorem fieldNNN_wordA : fieldNNN (wordA g nnn) = nnn := by
  apply BitVec.eq_of_toNat_eq
  have := nnn.isLt
  rw [fieldNNN_toNat, wordA_toNat]
  omega

@[simp] theorem fieldG_wordI : fieldG (wordI g x nn) = g := by
  apply BitVec.eq_of_toNat_eq
  have := nn.isLt
  rw [fieldG_toNat, wordI_toNat]
  omega

@[simp] theorem fieldX_wordI : fieldX (wordI g x nn) = x := by
  apply Fin.ext
  have := nn.isLt
  rw [fieldX_val, wordI_toNat]
  omega

@[simp] theorem fieldNN_wordI : fieldNN (wordI g x nn) = nn := by
  apply BitVec.eq_of_toNat_eq
  have := nn.isLt
  rw [fieldNN_toNat, wordI_toNat]
  omega

@[simp] theorem fieldG_wordD : fieldG (wordD g x y n) = g := by
  apply BitVec.eq_of_toNat_eq
  have := n.isLt
  rw [fieldG_toNat, wordD_toNat]
  omega

@[simp] theorem fieldX_wordD : fieldX (wordD g x y n) = x := by
  apply Fin.ext
  have := n.isLt
  rw [fieldX_val, wordD_toNat]
  omega

@[simp] theorem fieldY_wordD : fieldY (wordD g x y n) = y := by
  apply Fin.ext
  have := n.isLt
  rw [fieldY_val, wordD_toNat]
  omega

@[simp] theorem fieldN_wordD : fieldN (wordD g x y n) = n := by
  apply BitVec.eq_of_toNat_eq
  have := n.isLt
  rw [fieldN_toNat, wordD_toNat]
  omega

end

/-! ### Bytes of a word -/

/-- A word is its two bytes, high byte first (R54). -/
theorem wordOfBytes_high_low (w : Word) : wordOfBytes (highByte w) (lowByte w) = w := by
  apply BitVec.eq_of_toNat_eq
  have := w.isLt
  rw [wordOfBytes, append_toNat]
  simp only [highByte, lowByte, BitVec.extractLsb'_toNat, Nat.shiftRight_eq_div_pow]
  omega

theorem wordOfBytes_toNat (high low : Byte) : (wordOfBytes high low).toNat = 256 * high.toNat + low.toNat := by
  rw [wordOfBytes, append_toNat]
  omega

end Sys2Proof
end

