-- ==== Sys2Proof/Laws/State.lean ====
section
/-! SUPPORT. What each field and each accessor reads after each update of the state: one lemma a pair, true by unfolding.
The value an update gives its own element is in Laws/Ops.lean where it is not the argument itself. -/

namespace Sys2Proof.Machine

variable (s : State)

/-! ### After `setV` -/

@[simp] theorem State.setV_mem (r : Reg) (b : Byte) : (s.setV r b).mem = s.mem := rfl
@[simp] theorem State.setV_I (r : Reg) (b : Byte) : (s.setV r b).I = s.I := rfl
@[simp] theorem State.setV_pc (r : Reg) (b : Byte) : (s.setV r b).pc = s.pc := rfl
@[simp] theorem State.setV_stack (r : Reg) (b : Byte) : (s.setV r b).stack = s.stack := rfl
@[simp] theorem State.setV_sp (r : Reg) (b : Byte) : (s.setV r b).sp = s.sp := rfl
@[simp] theorem State.setV_fb (r : Reg) (b : Byte) : (s.setV r b).fb = s.fb := rfl
@[simp] theorem State.setV_DT (r : Reg) (b : Byte) : (s.setV r b).DT = s.DT := rfl
@[simp] theorem State.setV_ST (r : Reg) (b : Byte) : (s.setV r b).ST = s.ST := rfl
@[simp] theorem State.setV_key (r : Reg) (b : Byte) : (s.setV r b).key = s.key := rfl
@[simp] theorem State.setV_redraw (r : Reg) (b : Byte) : (s.setV r b).redraw = s.redraw := rfl
@[simp] theorem State.setV_rnd (r : Reg) (b : Byte) : (s.setV r b).rnd = s.rnd := rfl
@[simp] theorem State.setV_draws (r : Reg) (b : Byte) : (s.setV r b).draws = s.draws := rfl
@[simp] theorem State.setV_schedule (r : Reg) (b : Byte) : (s.setV r b).schedule = s.schedule := rfl
@[simp] theorem State.setV_out (r : Reg) (b : Byte) : (s.setV r b).out = s.out := rfl
@[simp] theorem State.setV_keyAt (r : Reg) (b : Byte) (k : Key) : (s.setV r b).keyAt k = s.keyAt k := rfl
@[simp] theorem State.setV_stackAt (r : Reg) (b : Byte) (j : Fin 16) : (s.setV r b).stackAt j = s.stackAt j := rfl
@[simp] theorem State.setV_pixel (r : Reg) (b : Byte) (x : Fin 64) (y : Fin 32) : (s.setV r b).pixel x y = s.pixel x y := rfl
@[simp] theorem State.setV_memRead (r : Reg) (b : Byte) (a : Nat) : (s.setV r b).memRead a = s.memRead a := rfl
@[simp] theorem State.setV_dataAddr (r : Reg) (b : Byte) (k : Nat) : (s.setV r b).dataAddr k = s.dataAddr k := rfl

/-! ### After `setI` -/

@[simp] theorem State.setI_mem (w : Word) : (s.setI w).mem = s.mem := rfl
@[simp] theorem State.setI_V (w : Word) : (s.setI w).V = s.V := rfl
@[simp] theorem State.setI_I (w : Word) : (s.setI w).I = w := rfl
@[simp] theorem State.setI_pc (w : Word) : (s.setI w).pc = s.pc := rfl
@[simp] theorem State.setI_stack (w : Word) : (s.setI w).stack = s.stack := rfl
@[simp] theorem State.setI_sp (w : Word) : (s.setI w).sp = s.sp := rfl
@[simp] theorem State.setI_fb (w : Word) : (s.setI w).fb = s.fb := rfl
@[simp] theorem State.setI_DT (w : Word) : (s.setI w).DT = s.DT := rfl
@[simp] theorem State.setI_ST (w : Word) : (s.setI w).ST = s.ST := rfl
@[simp] theorem State.setI_key (w : Word) : (s.setI w).key = s.key := rfl
@[simp] theorem State.setI_redraw (w : Word) : (s.setI w).redraw = s.redraw := rfl
@[simp] theorem State.setI_rnd (w : Word) : (s.setI w).rnd = s.rnd := rfl
@[simp] theorem State.setI_draws (w : Word) : (s.setI w).draws = s.draws := rfl
@[simp] theorem State.setI_schedule (w : Word) : (s.setI w).schedule = s.schedule := rfl
@[simp] theorem State.setI_out (w : Word) : (s.setI w).out = s.out := rfl
@[simp] theorem State.setI_v (w : Word) (x : Reg) : (s.setI w).v x = s.v x := rfl
@[simp] theorem State.setI_keyAt (w : Word) (k : Key) : (s.setI w).keyAt k = s.keyAt k := rfl
@[simp] theorem State.setI_stackAt (w : Word) (j : Fin 16) : (s.setI w).stackAt j = s.stackAt j := rfl
@[simp] theorem State.setI_pixel (w : Word) (x : Fin 64) (y : Fin 32) : (s.setI w).pixel x y = s.pixel x y := rfl
@[simp] theorem State.setI_memRead (w : Word) (a : Nat) : (s.setI w).memRead a = s.memRead a := rfl

/-! ### After `setPc` -/

@[simp] theorem State.setPc_mem (w : Word) : (s.setPc w).mem = s.mem := rfl
@[simp] theorem State.setPc_V (w : Word) : (s.setPc w).V = s.V := rfl
@[simp] theorem State.setPc_I (w : Word) : (s.setPc w).I = s.I := rfl
@[simp] theorem State.setPc_pc (w : Word) : (s.setPc w).pc = w := rfl
@[simp] theorem State.setPc_stack (w : Word) : (s.setPc w).stack = s.stack := rfl
@[simp] theorem State.setPc_sp (w : Word) : (s.setPc w).sp = s.sp := rfl
@[simp] theorem State.setPc_fb (w : Word) : (s.setPc w).fb = s.fb := rfl
@[simp] theorem State.setPc_DT (w : Word) : (s.setPc w).DT = s.DT := rfl
@[simp] theorem State.setPc_ST (w : Word) : (s.setPc w).ST = s.ST := rfl
@[simp] theorem State.setPc_key (w : Word) : (s.setPc w).key = s.key := rfl
@[simp] theorem State.setPc_redraw (w : Word) : (s.setPc w).redraw = s.redraw := rfl
@[simp] theorem State.setPc_rnd (w : Word) : (s.setPc w).rnd = s.rnd := rfl
@[simp] theorem State.setPc_draws (w : Word) : (s.setPc w).draws = s.draws := rfl
@[simp] theorem State.setPc_schedule (w : Word) : (s.setPc w).schedule = s.schedule := rfl
@[simp] theorem State.setPc_out (w : Word) : (s.setPc w).out = s.out := rfl
@[simp] theorem State.setPc_v (w : Word) (x : Reg) : (s.setPc w).v x = s.v x := rfl
@[simp] theorem State.setPc_keyAt (w : Word) (k : Key) : (s.setPc w).keyAt k = s.keyAt k := rfl
@[simp] theorem State.setPc_stackAt (w : Word) (j : Fin 16) : (s.setPc w).stackAt j = s.stackAt j := rfl
@[simp] theorem State.setPc_pixel (w : Word) (x : Fin 64) (y : Fin 32) : (s.setPc w).pixel x y = s.pixel x y := rfl
@[simp] theorem State.setPc_memRead (w : Word) (a : Nat) : (s.setPc w).memRead a = s.memRead a := rfl
@[simp] theorem State.setPc_dataAddr (w : Word) (k : Nat) : (s.setPc w).dataAddr k = s.dataAddr k := rfl

/-! ### After `setDT` -/

@[simp] theorem State.setDT_mem (b : Byte) : (s.setDT b).mem = s.mem := rfl
@[simp] theorem State.setDT_V (b : Byte) : (s.setDT b).V = s.V := rfl
@[simp] theorem State.setDT_I (b : Byte) : (s.setDT b).I = s.I := rfl
@[simp] theorem State.setDT_pc (b : Byte) : (s.setDT b).pc = s.pc := rfl
@[simp] theorem State.setDT_stack (b : Byte) : (s.setDT b).stack = s.stack := rfl
@[simp] theorem State.setDT_sp (b : Byte) : (s.setDT b).sp = s.sp := rfl
@[simp] theorem State.setDT_fb (b : Byte) : (s.setDT b).fb = s.fb := rfl
@[simp] theorem State.setDT_DT (b : Byte) : (s.setDT b).DT = b := rfl
@[simp] theorem State.setDT_ST (b : Byte) : (s.setDT b).ST = s.ST := rfl
@[simp] theorem State.setDT_key (b : Byte) : (s.setDT b).key = s.key := rfl
@[simp] theorem State.setDT_redraw (b : Byte) : (s.setDT b).redraw = s.redraw := rfl
@[simp] theorem State.setDT_rnd (b : Byte) : (s.setDT b).rnd = s.rnd := rfl
@[simp] theorem State.setDT_draws (b : Byte) : (s.setDT b).draws = s.draws := rfl
@[simp] theorem State.setDT_schedule (b : Byte) : (s.setDT b).schedule = s.schedule := rfl
@[simp] theorem State.setDT_out (b : Byte) : (s.setDT b).out = s.out := rfl
@[simp] theorem State.setDT_v (b : Byte) (x : Reg) : (s.setDT b).v x = s.v x := rfl
@[simp] theorem State.setDT_keyAt (b : Byte) (k : Key) : (s.setDT b).keyAt k = s.keyAt k := rfl
@[simp] theorem State.setDT_stackAt (b : Byte) (j : Fin 16) : (s.setDT b).stackAt j = s.stackAt j := rfl
@[simp] theorem State.setDT_pixel (b : Byte) (x : Fin 64) (y : Fin 32) : (s.setDT b).pixel x y = s.pixel x y := rfl
@[simp] theorem State.setDT_memRead (b : Byte) (a : Nat) : (s.setDT b).memRead a = s.memRead a := rfl
@[simp] theorem State.setDT_dataAddr (b : Byte) (k : Nat) : (s.setDT b).dataAddr k = s.dataAddr k := rfl

/-! ### After `setST` -/

@[simp] theorem State.setST_mem (b : Byte) : (s.setST b).mem = s.mem := rfl
@[simp] theorem State.setST_V (b : Byte) : (s.setST b).V = s.V := rfl
@[simp] theorem State.setST_I (b : Byte) : (s.setST b).I = s.I := rfl
@[simp] theorem State.setST_pc (b : Byte) : (s.setST b).pc = s.pc := rfl
@[simp] theorem State.setST_stack (b : Byte) : (s.setST b).stack = s.stack := rfl
@[simp] theorem State.setST_sp (b : Byte) : (s.setST b).sp = s.sp := rfl
@[simp] theorem State.setST_fb (b : Byte) : (s.setST b).fb = s.fb := rfl
@[simp] theorem State.setST_DT (b : Byte) : (s.setST b).DT = s.DT := rfl
@[simp] theorem State.setST_ST (b : Byte) : (s.setST b).ST = b := rfl
@[simp] theorem State.setST_key (b : Byte) : (s.setST b).key = s.key := rfl
@[simp] theorem State.setST_redraw (b : Byte) : (s.setST b).redraw = s.redraw := rfl
@[simp] theorem State.setST_rnd (b : Byte) : (s.setST b).rnd = s.rnd := rfl
@[simp] theorem State.setST_draws (b : Byte) : (s.setST b).draws = s.draws := rfl
@[simp] theorem State.setST_schedule (b : Byte) : (s.setST b).schedule = s.schedule := rfl
@[simp] theorem State.setST_out (b : Byte) : (s.setST b).out = s.out := rfl
@[simp] theorem State.setST_v (b : Byte) (x : Reg) : (s.setST b).v x = s.v x := rfl
@[simp] theorem State.setST_keyAt (b : Byte) (k : Key) : (s.setST b).keyAt k = s.keyAt k := rfl
@[simp] theorem State.setST_stackAt (b : Byte) (j : Fin 16) : (s.setST b).stackAt j = s.stackAt j := rfl
@[simp] theorem State.setST_pixel (b : Byte) (x : Fin 64) (y : Fin 32) : (s.setST b).pixel x y = s.pixel x y := rfl
@[simp] theorem State.setST_memRead (b : Byte) (a : Nat) : (s.setST b).memRead a = s.memRead a := rfl
@[simp] theorem State.setST_dataAddr (b : Byte) (k : Nat) : (s.setST b).dataAddr k = s.dataAddr k := rfl

/-! ### After `setRedraw` -/

@[simp] theorem State.setRedraw_mem (b : Bool) : (s.setRedraw b).mem = s.mem := rfl
@[simp] theorem State.setRedraw_V (b : Bool) : (s.setRedraw b).V = s.V := rfl
@[simp] theorem State.setRedraw_I (b : Bool) : (s.setRedraw b).I = s.I := rfl
@[simp] theorem State.setRedraw_pc (b : Bool) : (s.setRedraw b).pc = s.pc := rfl
@[simp] theorem State.setRedraw_stack (b : Bool) : (s.setRedraw b).stack = s.stack := rfl
@[simp] theorem State.setRedraw_sp (b : Bool) : (s.setRedraw b).sp = s.sp := rfl
@[simp] theorem State.setRedraw_fb (b : Bool) : (s.setRedraw b).fb = s.fb := rfl
@[simp] theorem State.setRedraw_DT (b : Bool) : (s.setRedraw b).DT = s.DT := rfl
@[simp] theorem State.setRedraw_ST (b : Bool) : (s.setRedraw b).ST = s.ST := rfl
@[simp] theorem State.setRedraw_key (b : Bool) : (s.setRedraw b).key = s.key := rfl
@[simp] theorem State.setRedraw_redraw (b : Bool) : (s.setRedraw b).redraw = b := rfl
@[simp] theorem State.setRedraw_rnd (b : Bool) : (s.setRedraw b).rnd = s.rnd := rfl
@[simp] theorem State.setRedraw_draws (b : Bool) : (s.setRedraw b).draws = s.draws := rfl
@[simp] theorem State.setRedraw_schedule (b : Bool) : (s.setRedraw b).schedule = s.schedule := rfl
@[simp] theorem State.setRedraw_out (b : Bool) : (s.setRedraw b).out = s.out := rfl
@[simp] theorem State.setRedraw_v (b : Bool) (x : Reg) : (s.setRedraw b).v x = s.v x := rfl
@[simp] theorem State.setRedraw_keyAt (b : Bool) (k : Key) : (s.setRedraw b).keyAt k = s.keyAt k := rfl
@[simp] theorem State.setRedraw_stackAt (b : Bool) (j : Fin 16) : (s.setRedraw b).stackAt j = s.stackAt j := rfl
@[simp] theorem State.setRedraw_pixel (b : Bool) (x : Fin 64) (y : Fin 32) : (s.setRedraw b).pixel x y = s.pixel x y := rfl
@[simp] theorem State.setRedraw_memRead (b : Bool) (a : Nat) : (s.setRedraw b).memRead a = s.memRead a := rfl
@[simp] theorem State.setRedraw_dataAddr (b : Bool) (k : Nat) : (s.setRedraw b).dataAddr k = s.dataAddr k := rfl

/-! ### After `setKeyAt` -/

@[simp] theorem State.setKeyAt_mem (r : Key) (b : Bool) : (s.setKeyAt r b).mem = s.mem := rfl
@[simp] theorem State.setKeyAt_V (r : Key) (b : Bool) : (s.setKeyAt r b).V = s.V := rfl
@[simp] theorem State.setKeyAt_I (r : Key) (b : Bool) : (s.setKeyAt r b).I = s.I := rfl
@[simp] theorem State.setKeyAt_pc (r : Key) (b : Bool) : (s.setKeyAt r b).pc = s.pc := rfl
@[simp] theorem State.setKeyAt_stack (r : Key) (b : Bool) : (s.setKeyAt r b).stack = s.stack := rfl
@[simp] theorem State.setKeyAt_sp (r : Key) (b : Bool) : (s.setKeyAt r b).sp = s.sp := rfl
@[simp] theorem State.setKeyAt_fb (r : Key) (b : Bool) : (s.setKeyAt r b).fb = s.fb := rfl
@[simp] theorem State.setKeyAt_DT (r : Key) (b : Bool) : (s.setKeyAt r b).DT = s.DT := rfl
@[simp] theorem State.setKeyAt_ST (r : Key) (b : Bool) : (s.setKeyAt r b).ST = s.ST := rfl
@[simp] theorem State.setKeyAt_redraw (r : Key) (b : Bool) : (s.setKeyAt r b).redraw = s.redraw := rfl
@[simp] theorem State.setKeyAt_rnd (r : Key) (b : Bool) : (s.setKeyAt r b).rnd = s.rnd := rfl
@[simp] theorem State.setKeyAt_draws (r : Key) (b : Bool) : (s.setKeyAt r b).draws = s.draws := rfl
@[simp] theorem State.setKeyAt_schedule (r : Key) (b : Bool) : (s.setKeyAt r b).schedule = s.schedule := rfl
@[simp] theorem State.setKeyAt_out (r : Key) (b : Bool) : (s.setKeyAt r b).out = s.out := rfl
@[simp] theorem State.setKeyAt_v (r : Key) (b : Bool) (x : Reg) : (s.setKeyAt r b).v x = s.v x := rfl
@[simp] theorem State.setKeyAt_stackAt (r : Key) (b : Bool) (j : Fin 16) : (s.setKeyAt r b).stackAt j = s.stackAt j := rfl
@[simp] theorem State.setKeyAt_pixel (r : Key) (b : Bool) (x : Fin 64) (y : Fin 32) : (s.setKeyAt r b).pixel x y = s.pixel x y := rfl
@[simp] theorem State.setKeyAt_memRead (r : Key) (b : Bool) (a : Nat) : (s.setKeyAt r b).memRead a = s.memRead a := rfl
@[simp] theorem State.setKeyAt_dataAddr (r : Key) (b : Bool) (k : Nat) : (s.setKeyAt r b).dataAddr k = s.dataAddr k := rfl

/-! ### After `setOut` -/

@[simp] theorem State.setOut_mem (o : Output) : (s.setOut o).mem = s.mem := rfl
@[simp] theorem State.setOut_V (o : Output) : (s.setOut o).V = s.V := rfl
@[simp] theorem State.setOut_I (o : Output) : (s.setOut o).I = s.I := rfl
@[simp] theorem State.setOut_pc (o : Output) : (s.setOut o).pc = s.pc := rfl
@[simp] theorem State.setOut_stack (o : Output) : (s.setOut o).stack = s.stack := rfl
@[simp] theorem State.setOut_sp (o : Output) : (s.setOut o).sp = s.sp := rfl
@[simp] theorem State.setOut_fb (o : Output) : (s.setOut o).fb = s.fb := rfl
@[simp] theorem State.setOut_DT (o : Output) : (s.setOut o).DT = s.DT := rfl
@[simp] theorem State.setOut_ST (o : Output) : (s.setOut o).ST = s.ST := rfl
@[simp] theorem State.setOut_key (o : Output) : (s.setOut o).key = s.key := rfl
@[simp] theorem State.setOut_redraw (o : Output) : (s.setOut o).redraw = s.redraw := rfl
@[simp] theorem State.setOut_rnd (o : Output) : (s.setOut o).rnd = s.rnd := rfl
@[simp] theorem State.setOut_draws (o : Output) : (s.setOut o).draws = s.draws := rfl
@[simp] theorem State.setOut_schedule (o : Output) : (s.setOut o).schedule = s.schedule := rfl
@[simp] theorem State.setOut_out (o : Output) : (s.setOut o).out = o := rfl
@[simp] theorem State.setOut_v (o : Output) (x : Reg) : (s.setOut o).v x = s.v x := rfl
@[simp] theorem State.setOut_keyAt (o : Output) (k : Key) : (s.setOut o).keyAt k = s.keyAt k := rfl
@[simp] theorem State.setOut_stackAt (o : Output) (j : Fin 16) : (s.setOut o).stackAt j = s.stackAt j := rfl
@[simp] theorem State.setOut_pixel (o : Output) (x : Fin 64) (y : Fin 32) : (s.setOut o).pixel x y = s.pixel x y := rfl
@[simp] theorem State.setOut_memRead (o : Output) (a : Nat) : (s.setOut o).memRead a = s.memRead a := rfl
@[simp] theorem State.setOut_dataAddr (o : Output) (k : Nat) : (s.setOut o).dataAddr k = s.dataAddr k := rfl

/-! ### After `setRnd` -/

@[simp] theorem State.setRnd_mem (b : Byte) : (s.setRnd b).mem = s.mem := rfl
@[simp] theorem State.setRnd_V (b : Byte) : (s.setRnd b).V = s.V := rfl
@[simp] theorem State.setRnd_I (b : Byte) : (s.setRnd b).I = s.I := rfl
@[simp] theorem State.setRnd_pc (b : Byte) : (s.setRnd b).pc = s.pc := rfl
@[simp] theorem State.setRnd_stack (b : Byte) : (s.setRnd b).stack = s.stack := rfl
@[simp] theorem State.setRnd_sp (b : Byte) : (s.setRnd b).sp = s.sp := rfl
@[simp] theorem State.setRnd_fb (b : Byte) : (s.setRnd b).fb = s.fb := rfl
@[simp] theorem State.setRnd_DT (b : Byte) : (s.setRnd b).DT = s.DT := rfl
@[simp] theorem State.setRnd_ST (b : Byte) : (s.setRnd b).ST = s.ST := rfl
@[simp] theorem State.setRnd_key (b : Byte) : (s.setRnd b).key = s.key := rfl
@[simp] theorem State.setRnd_redraw (b : Byte) : (s.setRnd b).redraw = s.redraw := rfl
@[simp] theorem State.setRnd_rnd (b : Byte) : (s.setRnd b).rnd = b := rfl
@[simp] theorem State.setRnd_draws (b : Byte) : (s.setRnd b).draws = s.draws := rfl
@[simp] theorem State.setRnd_schedule (b : Byte) : (s.setRnd b).schedule = s.schedule := rfl
@[simp] theorem State.setRnd_out (b : Byte) : (s.setRnd b).out = s.out := rfl
@[simp] theorem State.setRnd_v (b : Byte) (x : Reg) : (s.setRnd b).v x = s.v x := rfl
@[simp] theorem State.setRnd_keyAt (b : Byte) (k : Key) : (s.setRnd b).keyAt k = s.keyAt k := rfl
@[simp] theorem State.setRnd_stackAt (b : Byte) (j : Fin 16) : (s.setRnd b).stackAt j = s.stackAt j := rfl
@[simp] theorem State.setRnd_pixel (b : Byte) (x : Fin 64) (y : Fin 32) : (s.setRnd b).pixel x y = s.pixel x y := rfl
@[simp] theorem State.setRnd_memRead (b : Byte) (a : Nat) : (s.setRnd b).memRead a = s.memRead a := rfl
@[simp] theorem State.setRnd_dataAddr (b : Byte) (k : Nat) : (s.setRnd b).dataAddr k = s.dataAddr k := rfl

/-! ### After `setSchedule` -/

@[simp] theorem State.setSchedule_mem (ops : List HostOp) : (s.setSchedule ops).mem = s.mem := rfl
@[simp] theorem State.setSchedule_V (ops : List HostOp) : (s.setSchedule ops).V = s.V := rfl
@[simp] theorem State.setSchedule_I (ops : List HostOp) : (s.setSchedule ops).I = s.I := rfl
@[simp] theorem State.setSchedule_pc (ops : List HostOp) : (s.setSchedule ops).pc = s.pc := rfl
@[simp] theorem State.setSchedule_stack (ops : List HostOp) : (s.setSchedule ops).stack = s.stack := rfl
@[simp] theorem State.setSchedule_sp (ops : List HostOp) : (s.setSchedule ops).sp = s.sp := rfl
@[simp] theorem State.setSchedule_fb (ops : List HostOp) : (s.setSchedule ops).fb = s.fb := rfl
@[simp] theorem State.setSchedule_DT (ops : List HostOp) : (s.setSchedule ops).DT = s.DT := rfl
@[simp] theorem State.setSchedule_ST (ops : List HostOp) : (s.setSchedule ops).ST = s.ST := rfl
@[simp] theorem State.setSchedule_key (ops : List HostOp) : (s.setSchedule ops).key = s.key := rfl
@[simp] theorem State.setSchedule_redraw (ops : List HostOp) : (s.setSchedule ops).redraw = s.redraw := rfl
@[simp] theorem State.setSchedule_rnd (ops : List HostOp) : (s.setSchedule ops).rnd = s.rnd := rfl
@[simp] theorem State.setSchedule_draws (ops : List HostOp) : (s.setSchedule ops).draws = s.draws := rfl
@[simp] theorem State.setSchedule_schedule (ops : List HostOp) : (s.setSchedule ops).schedule = ops := rfl
@[simp] theorem State.setSchedule_out (ops : List HostOp) : (s.setSchedule ops).out = s.out := rfl
@[simp] theorem State.setSchedule_v (ops : List HostOp) (x : Reg) : (s.setSchedule ops).v x = s.v x := rfl
@[simp] theorem State.setSchedule_keyAt (ops : List HostOp) (k : Key) : (s.setSchedule ops).keyAt k = s.keyAt k := rfl
@[simp] theorem State.setSchedule_stackAt (ops : List HostOp) (j : Fin 16) : (s.setSchedule ops).stackAt j = s.stackAt j := rfl
@[simp] theorem State.setSchedule_pixel (ops : List HostOp) (x : Fin 64) (y : Fin 32) : (s.setSchedule ops).pixel x y = s.pixel x y := rfl
@[simp] theorem State.setSchedule_memRead (ops : List HostOp) (a : Nat) : (s.setSchedule ops).memRead a = s.memRead a := rfl
@[simp] theorem State.setSchedule_dataAddr (ops : List HostOp) (k : Nat) : (s.setSchedule ops).dataAddr k = s.dataAddr k := rfl

/-! ### After `countDraw` -/

@[simp] theorem State.countDraw_mem : (s.countDraw).mem = s.mem := rfl
@[simp] theorem State.countDraw_V : (s.countDraw).V = s.V := rfl
@[simp] theorem State.countDraw_I : (s.countDraw).I = s.I := rfl
@[simp] theorem State.countDraw_pc : (s.countDraw).pc = s.pc := rfl
@[simp] theorem State.countDraw_stack : (s.countDraw).stack = s.stack := rfl
@[simp] theorem State.countDraw_sp : (s.countDraw).sp = s.sp := rfl
@[simp] theorem State.countDraw_fb : (s.countDraw).fb = s.fb := rfl
@[simp] theorem State.countDraw_DT : (s.countDraw).DT = s.DT := rfl
@[simp] theorem State.countDraw_ST : (s.countDraw).ST = s.ST := rfl
@[simp] theorem State.countDraw_key : (s.countDraw).key = s.key := rfl
@[simp] theorem State.countDraw_redraw : (s.countDraw).redraw = s.redraw := rfl
@[simp] theorem State.countDraw_rnd : (s.countDraw).rnd = s.rnd := rfl
@[simp] theorem State.countDraw_draws : (s.countDraw).draws = s.draws + 1 := rfl
@[simp] theorem State.countDraw_schedule : (s.countDraw).schedule = s.schedule := rfl
@[simp] theorem State.countDraw_out : (s.countDraw).out = s.out := rfl
@[simp] theorem State.countDraw_v (x : Reg) : (s.countDraw).v x = s.v x := rfl
@[simp] theorem State.countDraw_keyAt (k : Key) : (s.countDraw).keyAt k = s.keyAt k := rfl
@[simp] theorem State.countDraw_stackAt (j : Fin 16) : (s.countDraw).stackAt j = s.stackAt j := rfl
@[simp] theorem State.countDraw_pixel (x : Fin 64) (y : Fin 32) : (s.countDraw).pixel x y = s.pixel x y := rfl
@[simp] theorem State.countDraw_memRead (a : Nat) : (s.countDraw).memRead a = s.memRead a := rfl
@[simp] theorem State.countDraw_dataAddr (k : Nat) : (s.countDraw).dataAddr k = s.dataAddr k := rfl

/-! ### After `memWrite` -/

@[simp] theorem State.memWrite_V (c : Nat) (b : Byte) : (s.memWrite c b).V = s.V := rfl
@[simp] theorem State.memWrite_I (c : Nat) (b : Byte) : (s.memWrite c b).I = s.I := rfl
@[simp] theorem State.memWrite_pc (c : Nat) (b : Byte) : (s.memWrite c b).pc = s.pc := rfl
@[simp] theorem State.memWrite_stack (c : Nat) (b : Byte) : (s.memWrite c b).stack = s.stack := rfl
@[simp] theorem State.memWrite_sp (c : Nat) (b : Byte) : (s.memWrite c b).sp = s.sp := rfl
@[simp] theorem State.memWrite_fb (c : Nat) (b : Byte) : (s.memWrite c b).fb = s.fb := rfl
@[simp] theorem State.memWrite_DT (c : Nat) (b : Byte) : (s.memWrite c b).DT = s.DT := rfl
@[simp] theorem State.memWrite_ST (c : Nat) (b : Byte) : (s.memWrite c b).ST = s.ST := rfl
@[simp] theorem State.memWrite_key (c : Nat) (b : Byte) : (s.memWrite c b).key = s.key := rfl
@[simp] theorem State.memWrite_redraw (c : Nat) (b : Byte) : (s.memWrite c b).redraw = s.redraw := rfl
@[simp] theorem State.memWrite_rnd (c : Nat) (b : Byte) : (s.memWrite c b).rnd = s.rnd := rfl
@[simp] theorem State.memWrite_draws (c : Nat) (b : Byte) : (s.memWrite c b).draws = s.draws := rfl
@[simp] theorem State.memWrite_schedule (c : Nat) (b : Byte) : (s.memWrite c b).schedule = s.schedule := rfl
@[simp] theorem State.memWrite_out (c : Nat) (b : Byte) : (s.memWrite c b).out = s.out := rfl
@[simp] theorem State.memWrite_v (c : Nat) (b : Byte) (x : Reg) : (s.memWrite c b).v x = s.v x := rfl
@[simp] theorem State.memWrite_keyAt (c : Nat) (b : Byte) (k : Key) : (s.memWrite c b).keyAt k = s.keyAt k := rfl
@[simp] theorem State.memWrite_stackAt (c : Nat) (b : Byte) (j : Fin 16) : (s.memWrite c b).stackAt j = s.stackAt j := rfl
@[simp] theorem State.memWrite_pixel (c : Nat) (b : Byte) (x : Fin 64) (y : Fin 32) : (s.memWrite c b).pixel x y = s.pixel x y := rfl
@[simp] theorem State.memWrite_dataAddr (c : Nat) (b : Byte) (k : Nat) : (s.memWrite c b).dataAddr k = s.dataAddr k := rfl

/-! ### After `setPixel` -/

@[simp] theorem State.setPixel_mem (p : Fin 64) (q : Fin 32) (b : Bool) : (s.setPixel p q b).mem = s.mem := rfl
@[simp] theorem State.setPixel_V (p : Fin 64) (q : Fin 32) (b : Bool) : (s.setPixel p q b).V = s.V := rfl
@[simp] theorem State.setPixel_I (p : Fin 64) (q : Fin 32) (b : Bool) : (s.setPixel p q b).I = s.I := rfl
@[simp] theorem State.setPixel_pc (p : Fin 64) (q : Fin 32) (b : Bool) : (s.setPixel p q b).pc = s.pc := rfl
@[simp] theorem State.setPixel_stack (p : Fin 64) (q : Fin 32) (b : Bool) : (s.setPixel p q b).stack = s.stack := rfl
@[simp] theorem State.setPixel_sp (p : Fin 64) (q : Fin 32) (b : Bool) : (s.setPixel p q b).sp = s.sp := rfl
@[simp] theorem State.setPixel_DT (p : Fin 64) (q : Fin 32) (b : Bool) : (s.setPixel p q b).DT = s.DT := rfl
@[simp] theorem State.setPixel_ST (p : Fin 64) (q : Fin 32) (b : Bool) : (s.setPixel p q b).ST = s.ST := rfl
@[simp] theorem State.setPixel_key (p : Fin 64) (q : Fin 32) (b : Bool) : (s.setPixel p q b).key = s.key := rfl
@[simp] theorem State.setPixel_redraw (p : Fin 64) (q : Fin 32) (b : Bool) : (s.setPixel p q b).redraw = s.redraw := rfl
@[simp] theorem State.setPixel_rnd (p : Fin 64) (q : Fin 32) (b : Bool) : (s.setPixel p q b).rnd = s.rnd := rfl
@[simp] theorem State.setPixel_draws (p : Fin 64) (q : Fin 32) (b : Bool) : (s.setPixel p q b).draws = s.draws := rfl
@[simp] theorem State.setPixel_schedule (p : Fin 64) (q : Fin 32) (b : Bool) : (s.setPixel p q b).schedule = s.schedule := rfl
@[simp] theorem State.setPixel_out (p : Fin 64) (q : Fin 32) (b : Bool) : (s.setPixel p q b).out = s.out := rfl
@[simp] theorem State.setPixel_v (p : Fin 64) (q : Fin 32) (b : Bool) (x : Reg) : (s.setPixel p q b).v x = s.v x := rfl
@[simp] theorem State.setPixel_keyAt (p : Fin 64) (q : Fin 32) (b : Bool) (k : Key) : (s.setPixel p q b).keyAt k = s.keyAt k := rfl
@[simp] theorem State.setPixel_stackAt (p : Fin 64) (q : Fin 32) (b : Bool) (j : Fin 16) : (s.setPixel p q b).stackAt j = s.stackAt j := rfl
@[simp] theorem State.setPixel_memRead (p : Fin 64) (q : Fin 32) (b : Bool) (a : Nat) : (s.setPixel p q b).memRead a = s.memRead a := rfl
@[simp] theorem State.setPixel_dataAddr (p : Fin 64) (q : Fin 32) (b : Bool) (k : Nat) : (s.setPixel p q b).dataAddr k = s.dataAddr k := rfl

/-! ### After `clearPixels` -/

@[simp] theorem State.clearPixels_mem : (s.clearPixels).mem = s.mem := rfl
@[simp] theorem State.clearPixels_V : (s.clearPixels).V = s.V := rfl
@[simp] theorem State.clearPixels_I : (s.clearPixels).I = s.I := rfl
@[simp] theorem State.clearPixels_pc : (s.clearPixels).pc = s.pc := rfl
@[simp] theorem State.clearPixels_stack : (s.clearPixels).stack = s.stack := rfl
@[simp] theorem State.clearPixels_sp : (s.clearPixels).sp = s.sp := rfl
@[simp] theorem State.clearPixels_DT : (s.clearPixels).DT = s.DT := rfl
@[simp] theorem State.clearPixels_ST : (s.clearPixels).ST = s.ST := rfl
@[simp] theorem State.clearPixels_key : (s.clearPixels).key = s.key := rfl
@[simp] theorem State.clearPixels_redraw : (s.clearPixels).redraw = s.redraw := rfl
@[simp] theorem State.clearPixels_rnd : (s.clearPixels).rnd = s.rnd := rfl
@[simp] theorem State.clearPixels_draws : (s.clearPixels).draws = s.draws := rfl
@[simp] theorem State.clearPixels_schedule : (s.clearPixels).schedule = s.schedule := rfl
@[simp] theorem State.clearPixels_out : (s.clearPixels).out = s.out := rfl
@[simp] theorem State.clearPixels_v (x : Reg) : (s.clearPixels).v x = s.v x := rfl
@[simp] theorem State.clearPixels_keyAt (k : Key) : (s.clearPixels).keyAt k = s.keyAt k := rfl
@[simp] theorem State.clearPixels_stackAt (j : Fin 16) : (s.clearPixels).stackAt j = s.stackAt j := rfl
@[simp] theorem State.clearPixels_memRead (a : Nat) : (s.clearPixels).memRead a = s.memRead a := rfl
@[simp] theorem State.clearPixels_dataAddr (k : Nat) : (s.clearPixels).dataAddr k = s.dataAddr k := rfl

/-! ### After `raise` -/

@[simp] theorem State.raise_mem (d : Diagnostic) : (s.raise d).mem = s.mem := rfl
@[simp] theorem State.raise_V (d : Diagnostic) : (s.raise d).V = s.V := rfl
@[simp] theorem State.raise_I (d : Diagnostic) : (s.raise d).I = s.I := rfl
@[simp] theorem State.raise_pc (d : Diagnostic) : (s.raise d).pc = s.pc := rfl
@[simp] theorem State.raise_stack (d : Diagnostic) : (s.raise d).stack = s.stack := rfl
@[simp] theorem State.raise_sp (d : Diagnostic) : (s.raise d).sp = s.sp := rfl
@[simp] theorem State.raise_fb (d : Diagnostic) : (s.raise d).fb = s.fb := rfl
@[simp] theorem State.raise_DT (d : Diagnostic) : (s.raise d).DT = s.DT := rfl
@[simp] theorem State.raise_ST (d : Diagnostic) : (s.raise d).ST = s.ST := rfl
@[simp] theorem State.raise_key (d : Diagnostic) : (s.raise d).key = s.key := rfl
@[simp] theorem State.raise_redraw (d : Diagnostic) : (s.raise d).redraw = s.redraw := rfl
@[simp] theorem State.raise_rnd (d : Diagnostic) : (s.raise d).rnd = s.rnd := rfl
@[simp] theorem State.raise_draws (d : Diagnostic) : (s.raise d).draws = s.draws := rfl
@[simp] theorem State.raise_schedule (d : Diagnostic) : (s.raise d).schedule = s.schedule := rfl
@[simp] theorem State.raise_out (d : Diagnostic) : (s.raise d).out = .diagnostic d := rfl
@[simp] theorem State.raise_v (d : Diagnostic) (x : Reg) : (s.raise d).v x = s.v x := rfl
@[simp] theorem State.raise_keyAt (d : Diagnostic) (k : Key) : (s.raise d).keyAt k = s.keyAt k := rfl
@[simp] theorem State.raise_stackAt (d : Diagnostic) (j : Fin 16) : (s.raise d).stackAt j = s.stackAt j := rfl
@[simp] theorem State.raise_pixel (d : Diagnostic) (x : Fin 64) (y : Fin 32) : (s.raise d).pixel x y = s.pixel x y := rfl
@[simp] theorem State.raise_memRead (d : Diagnostic) (a : Nat) : (s.raise d).memRead a = s.memRead a := rfl
@[simp] theorem State.raise_dataAddr (d : Diagnostic) (k : Nat) : (s.raise d).dataAddr k = s.dataAddr k := rfl

end Sys2Proof.Machine
end

