-- ==== Sys2Proof/Laws/Ops.lean ====
section
/-! SUPPORT. What each shared operation over registers, keys, pixels and the call stack does, once for all callers. -/

namespace Sys2Proof.Machine

variable (s : State)

/-! ### Registers, keys, pixels -/

/-- A register write changes that register and no other. -/
theorem State.v_setV (x : Reg) (b : Byte) (y : Reg) : (s.setV x b).v y = if y = x then b else s.v y := by
  simp only [State.v, State.setV, Vector.getElem_set, Fin.ext_iff, eq_comm]

@[simp] theorem State.v_setV_self (x : Reg) (b : Byte) : (s.setV x b).v x = b := by simp [State.v_setV]

theorem State.v_setV_of_ne {x y : Reg} (h : y ≠ x) (b : Byte) : (s.setV x b).v y = s.v y := by
  simp [State.v_setV, h]

/-- `setKey` changes that key and no other. -/
theorem State.keyAt_setKeyAt (k : Key) (b : Bool) (j : Key) :
    (s.setKeyAt k b).keyAt j = if j = k then b else s.keyAt j := by
  simp only [State.keyAt, State.setKeyAt, Vector.getElem_set, Fin.ext_iff, eq_comm]

/-- A pixel write changes that pixel and no other. -/
theorem State.pixel_setPixel (x : Fin 64) (y : Fin 32) (b : Bool) (p : Fin 64) (q : Fin 32) :
    (s.setPixel x y b).pixel p q = if p = x ∧ q = y then b else s.pixel p q := by
  by_cases hy : y.val = q.val
  · by_cases hx : x.val = p.val <;>
      simp [State.pixel, State.setPixel, Fin.ext_iff, hx, hy, eq_comm]
  · simp [State.pixel, State.setPixel, Fin.ext_iff, hy, Ne.symm hy]

@[simp] theorem State.pixel_clearPixels (x : Fin 64) (y : Fin 32) : s.clearPixels.pixel x y = false := by
  simp [State.pixel, State.clearPixels]

/-! ### Call stack -/

/-- Every outcome of a push (R112): nothing at 16 entries, else one entry more. -/
theorem State.push_eq_none_iff (w : Word) : s.push w = none ↔ s.sp.val = 16 := by
  unfold State.push
  split <;> simp <;> omega

/-- What a push that succeeds leaves (R112). -/
theorem State.push_spec {w : Word} {t : State} (h : s.push w = some t) :
    s.sp.val < 16 ∧ t.sp.val = s.sp.val + 1 ∧
      (∀ j : Fin 16, t.stackAt j = if j.val = s.sp.val then w else s.stackAt j) ∧
      t = { s with stack := t.stack, sp := t.sp } := by
  unfold State.push at h
  split at h
  · cases h
    exact ⟨by assumption, rfl, fun j => by simp [State.stackAt, Vector.getElem_set, eq_comm], rfl⟩
  · cases h

/-- A push with room succeeds. -/
theorem State.push_of_lt (w : Word) (h : s.sp.val < 16) :
    s.push w = some { s with stack := s.stack.set s.sp.val w, sp := ⟨s.sp.val + 1, by omega⟩ } := by
  simp [State.push, h]

/-- Every outcome of a pop (R110): nothing at 0 entries, else the entry below `sp`, which is not erased (R26). -/
theorem State.pop_eq_none_iff : s.pop = none ↔ s.sp.val = 0 := by
  unfold State.pop
  split <;> simp <;> omega

/-- What a pop that succeeds leaves (R110). -/
theorem State.pop_spec {w : Word} {t : State} (h : s.pop = some (w, t)) :
    0 < s.sp.val ∧ t.sp.val + 1 = s.sp.val ∧ (∀ j : Fin 16, j.val = t.sp.val → w = s.stackAt j) ∧
      t = { s with sp := t.sp } := by
  unfold State.pop at h
  split at h
  · cases h
    refine ⟨by assumption, by simp; omega, fun j hj => ?_, rfl⟩
    simp only at hj
    simp [State.stackAt, hj]
  · cases h

/-- A pop with an entry held succeeds. -/
theorem State.pop_of_pos (h : 0 < s.sp.val) :
    s.pop = some (s.stackAt ⟨s.sp.val - 1, by omega⟩, { s with sp := ⟨s.sp.val - 1, by omega⟩ }) := by
  simp [State.pop, h]

/-! ### Skips and the ALU's two statement orders -/

theorem State.skipIf_eq (c : Bool) : s.skipIf c = s.setPc (if c then s.pc + 2 else s.pc) := by
  cases c <;> rfl

/-- The result-first order (R123, R128): the result is kept unless `x` is 15; VF gets the flag of the value written. -/
theorem State.resultFirst_v (flag : Byte → Byte) (x : Reg) (r : Byte) (y : Reg) :
    (s.resultFirst flag x r).v y = if y = VF then flag r else if y = x then r else s.v y := by
  simp only [State.resultFirst, State.v_setV, if_true]

/-- The flag-first order (R126): the result statement reads the registers after the flag is written (R11). -/
theorem State.flagFirst_v (flag op : Byte → Byte → Byte) (x y z : Reg) :
    (s.flagFirst flag op x y).v z =
      if z = x then op (if x = VF then flag (s.v x) (s.v y) else s.v x) (if y = VF then flag (s.v x) (s.v y) else s.v y)
      else if z = VF then flag (s.v x) (s.v y) else s.v z := by
  simp only [State.flagFirst, State.v_setV]

/-- Neither order touches anything but the registers. -/
theorem State.resultFirst_eq (flag : Byte → Byte) (x : Reg) (r : Byte) :
    s.resultFirst flag x r = { s with V := (s.resultFirst flag x r).V } := rfl

theorem State.flagFirst_eq (flag op : Byte → Byte → Byte) (x y : Reg) :
    s.flagFirst flag op x y = { s with V := (s.flagFirst flag op x y).V } := rfl

/-! ### Flags as numbers -/

theorem carryFlag_toNat (a b : Byte) : (carryFlag a b).toNat = if a.toNat + b.toNat > 255 then 1 else 0 := by
  have := a.isLt
  by_cases h : a.toNat + b.toNat > 255
  · have h' : b.toNat > 255 - a.toNat := by omega
    simp [carryFlag, flagByte, h, h']
  · have h' : ¬ b.toNat > 255 - a.toNat := by omega
    simp only [carryFlag, flagByte, h, h']
    rfl

theorem notBorrowFlag_toNat (a b : Byte) : (notBorrowFlag a b).toNat = if a.toNat ≥ b.toNat then 1 else 0 := by
  by_cases h : a.toNat ≥ b.toNat <;> simp only [notBorrowFlag, flagByte, h] <;> rfl

theorem strictFlag_toNat (a b : Byte) : (strictFlag a b).toNat = if b.toNat > a.toNat then 1 else 0 := by
  by_cases h : b.toNat > a.toNat <;> simp only [strictFlag, flagByte, h] <;> rfl

theorem bit0Flag_toNat (r : Byte) : (bit0Flag r).toNat = r.toNat % 2 := by
  simp [bit0Flag, BitVec.toNat_and, Nat.and_one_is_mod]

theorem bit7Flag_toNat (r : Byte) : (bit7Flag r).toNat = r.toNat / 128 := by
  simp [bit7Flag, BitVec.toNat_ushiftRight, Nat.shiftRight_eq_div_pow]

/-! ### The least pressed key -/

theorem State.lowestKey_eq_none_iff : s.lowestKey = none ↔ ∀ k, s.keyAt k = false := by
  simp [State.lowestKey]

theorem State.lowestKey_spec {k : Key} (h : s.lowestKey = some k) :
    s.keyAt k = true ∧ ∀ j, j < k → s.keyAt j = false := by
  rw [State.lowestKey, List.find?_eq_some_iff_getElem] at h
  obtain ⟨hk, i, hi, rfl, hj⟩ := h
  refine ⟨hk, fun j hlt => ?_⟩
  have hlt' : j.val < i := by simpa [Fin.lt_def] using hlt
  simpa using hj j.val hlt'

end Sys2Proof.Machine
end

