-- ==== Sys2Proof/Laws/Display.lean ====
section
/-! SUPPORT. The draw unit: a sprite draw is the toggling of a list of cells, and what toggling distinct cells leaves. -/

namespace Sys2Proof.Machine

variable (s : State)

/-- A cell of the framebuffer, (column, row). -/
abbrev Pixel := Fin 64 × Fin 32

/-- `t` differs from `s` in the framebuffer and VF at most. -/
def OnlyDraw (s t : State) : Prop := t = { s with fb := t.fb, V := t.V } ∧ ∀ x, x ≠ VF → t.v x = s.v x

theorem OnlyDraw.refl : OnlyDraw s s := ⟨rfl, fun _ _ => rfl⟩

theorem OnlyDraw.trans {s t u : State} (h : OnlyDraw s t) (k : OnlyDraw t u) : OnlyDraw s u := by
  refine ⟨?_, fun x hx => (k.2 x hx).trans (h.2 x hx)⟩
  rw [k.1, h.1]

theorem OnlyDraw.memRead {s t : State} (h : OnlyDraw s t) (a : Nat) : t.memRead a = s.memRead a := by rw [h.1]; rfl

theorem OnlyDraw.dataAddr {s t : State} (h : OnlyDraw s t) (k : Nat) : t.dataAddr k = s.dataAddr k := by
  rw [h.1]; rfl

/-! ### One cell -/

theorem State.onlyDraw_drawPixel (x : Fin 64) (y : Fin 32) : OnlyDraw s (s.drawPixel x y) := by
  unfold State.drawPixel
  split
  · exact ⟨rfl, fun z hz => s.v_setV_of_ne hz 1⟩
  · exact ⟨rfl, fun _ _ => rfl⟩

theorem State.pixel_drawPixel (x : Fin 64) (y : Fin 32) (p : Fin 64) (q : Fin 32) :
    (s.drawPixel x y).pixel p q = if (p, q) = (x, y) then !s.pixel p q else s.pixel p q := by
  unfold State.drawPixel
  by_cases h : p = x ∧ q = y
  · obtain ⟨rfl, rfl⟩ := h
    split <;> simp [State.pixel_setPixel]
  · split <;> simp [State.pixel_setPixel, h, Prod.ext_iff]

theorem State.v_drawPixel_VF (x : Fin 64) (y : Fin 32) :
    (s.drawPixel x y).v VF = if s.pixel x y then 1 else s.v VF := by
  unfold State.drawPixel
  split <;> simp

/-! ### A list of cells -/

/-- Toggle the cells of a list, in order. -/
def State.drawCells (s : State) (cells : List Pixel) : State := cells.foldl (fun t c => t.drawPixel c.1 c.2) s

theorem State.onlyDraw_drawCells (cells : List Pixel) : ∀ s : State, OnlyDraw s (s.drawCells cells) := by
  induction cells with
  | nil => exact OnlyDraw.refl
  | cons c cells ih => exact fun s => (s.onlyDraw_drawPixel c.1 c.2).trans (ih _)

/-- Toggling distinct cells inverts each of them and leaves every other cell. -/
theorem State.pixel_drawCells (cells : List Pixel) (p : Fin 64) (q : Fin 32) :
    ∀ s : State, cells.Nodup →
      (s.drawCells cells).pixel p q = if (p, q) ∈ cells then !s.pixel p q else s.pixel p q := by
  induction cells with
  | nil => intro s _; simp [State.drawCells]
  | cons c cells ih =>
    intro s hn
    obtain ⟨hc, hn⟩ := List.nodup_cons.1 hn
    have := ih (s.drawPixel c.1 c.2) hn
    rw [State.pixel_drawPixel] at this
    refine this.trans ?_
    by_cases h : (p, q) = c
    · subst h
      simp [hc]
    · simp [h]

/-- VF after toggling distinct cells (R152): 1 when one of them was on, else as before. -/
theorem State.v_drawCells_VF (cells : List Pixel) :
    ∀ s : State, cells.Nodup →
      (s.drawCells cells).v VF = if ∃ c ∈ cells, s.pixel c.1 c.2 = true then 1 else s.v VF := by
  induction cells with
  | nil => intro s _; simp [State.drawCells]
  | cons c cells ih =>
    intro s hn
    obtain ⟨hc, hn⟩ := List.nodup_cons.1 hn
    have hsame : ∀ d ∈ cells, (s.drawPixel c.1 c.2).pixel d.1 d.2 = s.pixel d.1 d.2 := by
      intro d hd
      rw [State.pixel_drawPixel, if_neg]
      intro h
      exact hc ((show d = c from h) ▸ hd)
    have hex : (∃ d ∈ cells, (s.drawPixel c.1 c.2).pixel d.1 d.2 = true) ↔ ∃ d ∈ cells, s.pixel d.1 d.2 = true :=
      ⟨fun ⟨d, hd, h⟩ => ⟨d, hd, hsame d hd ▸ h⟩, fun ⟨d, hd, h⟩ => ⟨d, hd, (hsame d hd).symm ▸ h⟩⟩
    have := ih (s.drawPixel c.1 c.2) hn
    rw [State.v_drawPixel_VF] at this
    refine this.trans ?_
    by_cases h1 : ∃ d ∈ cells, s.pixel d.1 d.2 = true
    · rw [if_pos (hex.2 h1), if_pos]
      obtain ⟨d, hd, h⟩ := h1
      exact ⟨d, List.mem_cons_of_mem _ hd, h⟩
    · rw [if_neg (mt hex.1 h1)]
      by_cases h2 : s.pixel c.1 c.2 = true
      · rw [if_pos h2, if_pos ⟨c, List.mem_cons_self, h2⟩]
      · rw [if_neg h2, if_neg]
        rintro ⟨d, hd, h⟩
        obtain rfl | hd := List.mem_cons.1 hd
        · exact h2 h
        · exact h1 ⟨d, hd, h⟩

/-! ### The cells of a sprite -/

/-- The cells the set bits of sprite row `b` land on, at row `y` from column `x0` (R152). -/
def rowCells (b : Byte) (x0 y : Nat) : List Pixel :=
  ((List.range 8).filter (fun c => spriteBit b c)).map (fun c => (Fin.ofNat 64 (x0 + c), Fin.ofNat 32 y))

/-- The cells the set bits of an `n`-row sprite land on, in drawing order (R152). -/
def State.spriteCells (s : State) (x0 y0 n : Nat) : List Pixel :=
  (List.range n).flatMap (fun r => rowCells (s.memRead (s.dataAddr r)) x0 (y0 + r))

theorem State.drawRow_eq (x0 y : Nat) (b : Byte) : s.drawRow x0 y b = s.drawCells (rowCells b x0 y) := by
  simp [State.drawRow, State.drawCells, rowCells, List.foldl_map, List.foldl_filter]

theorem State.drawCells_append (k l : List Pixel) : s.drawCells (k ++ l) = (s.drawCells k).drawCells l := by
  simp [State.drawCells]

/-- A sprite draw toggles the cells of the sprite: the bytes it reads are those before the draw. -/
theorem State.drawSprite_eq (x0 y0 n : Nat) : s.drawSprite x0 y0 n = s.drawCells (s.spriteCells x0 y0 n) := by
  induction n with
  | zero => rfl
  | succ n ih =>
    have hs : s.drawSprite x0 y0 (n + 1) = (s.drawSprite x0 y0 n).drawRow x0 (y0 + n)
        ((s.drawSprite x0 y0 n).memRead ((s.drawSprite x0 y0 n).dataAddr n)) := by
      simp [State.drawSprite, List.range_succ]
    have hc : s.spriteCells x0 y0 (n + 1) =
        s.spriteCells x0 y0 n ++ rowCells (s.memRead (s.dataAddr n)) x0 (y0 + n) := by
      simp [State.spriteCells, List.range_succ]
    have ho := s.onlyDraw_drawCells (s.spriteCells x0 y0 n)
    rw [hs, hc, State.drawRow_eq, State.drawCells_append, ih, ho.memRead, ho.dataAddr]

theorem mem_rowCells {b : Byte} {x0 y : Nat} {c : Pixel} :
    c ∈ rowCells b x0 y ↔ ∃ k, k < 8 ∧ spriteBit b k = true ∧ (Fin.ofNat 64 (x0 + k), Fin.ofNat 32 y) = c := by
  simp [rowCells, and_assoc]

theorem State.mem_spriteCells {x0 y0 n : Nat} {c : Pixel} :
    c ∈ s.spriteCells x0 y0 n ↔ ∃ r k, r < n ∧ k < 8 ∧ spriteBit (s.memRead (s.dataAddr r)) k = true ∧
      (Fin.ofNat 64 (x0 + k), Fin.ofNat 32 (y0 + r)) = c := by
  simp only [State.spriteCells, List.mem_flatMap, List.mem_range, mem_rowCells]
  constructor
  · rintro ⟨r, hr, k, hk, hb, hc⟩
    exact ⟨r, k, hr, hk, hb, hc⟩
  · rintro ⟨r, k, hr, hk, hb, hc⟩
    exact ⟨r, hr, k, hk, hb, hc⟩

/-- "Within one draw no two sprite bits hit the same pixel" (R152): 8 distinct columns modulo 64, and at most 15 distinct
rows modulo 32. -/
theorem State.nodup_spriteCells (x0 y0 : Nat) {n : Nat} (hn : n ≤ 15) : (s.spriteCells x0 y0 n).Nodup := by
  unfold State.spriteCells
  rw [List.nodup_flatMap]
  refine ⟨fun r _ => ?_, ?_⟩
  · refine List.Nodup.map_on ?_ (List.nodup_range.filter _)
    intro a ha b hb hab
    simp only [List.mem_filter, List.mem_range] at ha hb
    simp only [Prod.mk.injEq, Fin.ext_iff, Fin.ofNat] at hab
    omega
  · refine List.nodup_range.pairwise_of_forall_ne ?_
    intro r hr k hk hne c h1 h2
    simp only [List.mem_range] at hr hk
    obtain ⟨i, _, _, rfl⟩ := mem_rowCells.1 h1
    obtain ⟨j, _, _, h⟩ := mem_rowCells.1 h2
    simp only [Prod.mk.injEq, Fin.ext_iff, Fin.ofNat] at h
    omega

end Sys2Proof.Machine
end

