-- ==== Sys2Proof/Laws/Memory.lean ====
section
/-! SUPPORT. Memory: a read after a write, the canonical form, and what the multi-byte operations leave. -/

namespace Sys2Proof.Machine

/-! ### The list of cells -/

theorem cellGet_cellErase (m : Memory) (a b : Nat) :
    cellGet (cellErase m a) b = if b = a then resetByte b else cellGet m b := by
  induction m with
  | nil => simp [cellErase, cellGet]
  | cons c m ih =>
    simp only [cellErase] at ih
    by_cases h : c.1 = a
    · simp only [cellErase, List.filter_cons, h, bne_self_eq_false, Bool.false_eq_true, if_false, ih, cellGet]
      split <;> simp_all
    · simp only [cellErase, List.filter_cons, bne_iff_ne, ne_eq, h, not_false_eq_true, if_true, cellGet, ih]
      split <;> split <;> simp_all

theorem cellGet_cellInsert (m : Memory) (a : Nat) (v : Byte) (hm : ∀ c ∈ m, c.1 ≠ a) (b : Nat) :
    cellGet (cellInsert m a v) b = if b = a then v else cellGet m b := by
  induction m with
  | nil => simp [cellInsert, cellGet]
  | cons c m ih =>
    have hc : c.1 ≠ a := hm c (by simp)
    have ih := ih (fun d hd => hm d (by simp [hd]))
    unfold cellInsert
    split
    · simp only [cellGet]
    · simp only [cellGet, ih]
      split <;> simp_all

theorem mem_cellErase {m : Memory} {a : Nat} {c : Host.Cell} : c ∈ cellErase m a ↔ c ∈ m ∧ c.1 ≠ a := by
  simp [cellErase]

/-- A byte put at an address is read there, and every other address reads as before. -/
theorem cellGet_cellPut (m : Memory) (a : Nat) (v : Byte) (b : Nat) :
    cellGet (cellPut m a v) b = if b = a then v else cellGet m b := by
  unfold cellPut
  split
  · rw [cellGet_cellErase]
    split <;> simp_all
  · rw [cellGet_cellInsert _ _ _ (fun c hc => (mem_cellErase.1 hc).2), cellGet_cellErase]
    split <;> simp_all

theorem mem_cellInsert {m : Memory} {a : Nat} {v : Byte} {c : Host.Cell} :
    c ∈ cellInsert m a v ↔ c = (a, v) ∨ c ∈ m := by
  induction m with
  | nil => simp [cellInsert]
  | cons d m ih =>
    unfold cellInsert
    split
    · simp
    · simp only [List.mem_cons, ih]
      tauto

theorem pairwise_cellInsert {m : Memory} {a : Nat} (v : Byte) (hm : m.Pairwise (fun c d => c.1 < d.1))
    (hne : ∀ c ∈ m, c.1 ≠ a) : (cellInsert m a v).Pairwise (fun c d => c.1 < d.1) := by
  induction m with
  | nil => simp [cellInsert]
  | cons d m ih =>
    obtain ⟨hd, hm'⟩ := List.pairwise_cons.1 hm
    have hda : d.1 ≠ a := hne d (by simp)
    unfold cellInsert
    split
    · rename_i hlt
      refine List.pairwise_cons.2 ⟨fun c hc => ?_, hm⟩
      obtain rfl | hc := List.mem_cons.1 hc
      · exact hlt
      · exact lt_trans hlt (hd c hc)
    · refine List.pairwise_cons.2 ⟨fun c hc => ?_, ih hm' (fun c hc => hne c (by simp [hc]))⟩
      obtain rfl | hc := mem_cellInsert.1 hc
      · simp only
        omega
      · exact hd c hc

/-- Every write keeps the canonical form. -/
theorem wf_cellPut {m : Memory} (hm : Memory.wf m) {a : Nat} (ha : a < Config.memSize) (v : Byte) :
    Memory.wf (cellPut m a v) := by
  have he : Memory.wf (cellErase m a) := ⟨hm.1.filter _, fun c hc => hm.2 c (mem_cellErase.1 hc).1⟩
  unfold cellPut
  split
  · exact he
  · refine ⟨pairwise_cellInsert v he.1 (fun c hc => (mem_cellErase.1 hc).2), fun c hc => ?_⟩
    obtain rfl | hc := mem_cellInsert.1 hc
    · exact ⟨ha, by assumption⟩
    · exact he.2 c hc

/-- The reset memory has the canonical form. -/
theorem wf_reset : Memory.wf State.reset.mem := by simp [Memory.wf, State.reset]

/-! ### Reads and writes of the state -/

variable (s : State)

/-- A write changes one cell (R52). -/
theorem State.memRead_memWrite (a : Nat) (v : Byte) (b : Nat) :
    (s.memWrite a v).memRead b = if b % 4096 = a % 4096 then v else s.memRead b :=
  cellGet_cellPut _ _ _ _

theorem State.wf_memWrite (h : Memory.wf s.mem) (a : Nat) (v : Byte) : Memory.wf (s.memWrite a v).mem :=
  wf_cellPut h (Nat.mod_lt _ (by decide)) v

/-- A read depends on the address modulo 4096 only (R51). -/
theorem State.memRead_mod (a : Nat) : s.memRead (a % 4096) = s.memRead a := by
  simp [State.memRead]

/-! ### What changes memory only -/

/-- `t` differs from `s` in memory at most. -/
def OnlyMem (s t : State) : Prop := t = { s with mem := t.mem }

/-- `t` differs from `s` in the general registers at most. -/
def OnlyV (s t : State) : Prop := t = { s with V := t.V }

theorem OnlyMem.refl : OnlyMem s s := rfl

theorem OnlyMem.write {s t : State} (h : OnlyMem s t) (a : Nat) (v : Byte) : OnlyMem s (t.memWrite a v) := by
  unfold OnlyMem at *
  rw [h]
  rfl

theorem OnlyV.refl : OnlyV s s := rfl

theorem OnlyV.set {s t : State} (h : OnlyV s t) (x : Reg) (b : Byte) : OnlyV s (t.setV x b) := by
  unfold OnlyV at *
  rw [h]
  rfl

/-! ### A program image (R212) -/

theorem State.onlyMem_memWriteAll (bs : List Byte) : ∀ (s : State) (a : Nat), OnlyMem s (s.memWriteAll a bs) := by
  induction bs with
  | nil => exact fun s _ => OnlyMem.refl s
  | cons b bs ih =>
    intro s a
    have h := ih (s.memWrite a b) (a + 1)
    unfold OnlyMem at *
    rw [State.memWriteAll, h]
    rfl

theorem State.wf_memWriteAll (bs : List Byte) :
    ∀ (s : State) (a : Nat), Memory.wf s.mem → Memory.wf (s.memWriteAll a bs).mem := by
  induction bs with
  | nil => exact fun _ _ h => h
  | cons b bs ih => exact fun s a h => ih _ _ (s.wf_memWrite h a b)

/-- An image that fits below the end of memory lies there byte for byte, and the rest of memory is as before. -/
theorem State.memRead_memWriteAll (bs : List Byte) :
    ∀ (s : State) (a : Nat), a + bs.length ≤ 4096 → ∀ c, c < 4096 →
      (s.memWriteAll a bs).memRead c =
        if h : a ≤ c ∧ c - a < bs.length then bs[c - a]'h.2 else s.memRead c := by
  induction bs with
  | nil => intro s a _ c _; simp [State.memWriteAll]
  | cons b bs ih =>
    intro s a ha c hc
    simp only [List.length_cons] at ha
    rw [State.memWriteAll, ih _ _ (by omega) c hc, State.memRead_memWrite, Nat.mod_eq_of_lt hc,
      Nat.mod_eq_of_lt (show a < 4096 by omega)]
    by_cases h1 : c = a
    · subst h1
      simp
    · by_cases h2 : a + 1 ≤ c
      · obtain ⟨d, hd⟩ : ∃ d, c - a = d + 1 := ⟨c - a - 1, by omega⟩
        have hd' : c - (a + 1) = d := by omega
        have hac : a ≤ c := by omega
        simp [h1, h2, hd, hd', hac]
      · have : ¬ a ≤ c := by omega
        simp [h1, h2, this]

/-! ### Register transfers (R144, R145) -/

theorem State.storeV_succ (n : Nat) :
    s.storeV (n + 1) = (s.storeV n).memWrite ((s.storeV n).dataAddr n) ((s.storeV n).v (Fin.ofNat 16 n)) := by
  simp [State.storeV, List.range_succ]

theorem State.loadV_succ (n : Nat) :
    s.loadV (n + 1) = (s.loadV n).setV (Fin.ofNat 16 n) ((s.loadV n).memRead ((s.loadV n).dataAddr n)) := by
  simp [State.loadV, List.range_succ]

theorem State.onlyMem_storeV (n : Nat) : OnlyMem s (s.storeV n) := by
  induction n with
  | zero => exact OnlyMem.refl s
  | succ n ih => rw [State.storeV_succ]; exact ih.write _ _

theorem State.onlyV_loadV (n : Nat) : OnlyV s (s.loadV n) := by
  induction n with
  | zero => exact OnlyV.refl s
  | succ n ih => rw [State.loadV_succ]; exact ih.set _ _

theorem OnlyMem.v {s t : State} (h : OnlyMem s t) (x : Reg) : t.v x = s.v x := by rw [h]; rfl

theorem OnlyMem.dataAddr {s t : State} (h : OnlyMem s t) (k : Nat) : t.dataAddr k = s.dataAddr k := by rw [h]; rfl

theorem OnlyV.memRead {s t : State} (h : OnlyV s t) (a : Nat) : t.memRead a = s.memRead a := by rw [h]; rfl

theorem OnlyV.dataAddr {s t : State} (h : OnlyV s t) (k : Nat) : t.dataAddr k = s.dataAddr k := by rw [h]; rfl

theorem State.wf_storeV (h : Memory.wf s.mem) (n : Nat) : Memory.wf (s.storeV n).mem := by
  induction n with
  | zero => exact h
  | succ n ih => rw [State.storeV_succ]; exact State.wf_memWrite _ ih _ _

/-- What a register store leaves in memory: an address holds `V[k]` for the `k < n` with `I + k` at it, if there is one. -/
theorem State.memRead_storeV {n : Nat} (hn : n ≤ 16) (a : Nat) :
    (∀ k, k < n → a % 4096 = (s.I.toNat + k) % 4096 → (s.storeV n).memRead a = s.v (Fin.ofNat 16 k)) ∧
      ((∀ k, k < n → a % 4096 ≠ (s.I.toNat + k) % 4096) → (s.storeV n).memRead a = s.memRead a) := by
  induction n with
  | zero => exact ⟨fun k hk => absurd hk (by omega), fun _ => rfl⟩
  | succ n ih =>
    have ih := ih (by omega)
    rw [State.storeV_succ, State.memRead_memWrite, (s.onlyMem_storeV n).dataAddr, (s.onlyMem_storeV n).v,
      State.dataAddr]
    refine ⟨fun k hk ha => ?_, fun ha => ?_⟩
    · by_cases hkn : k = n
      · subst hkn
        simp [ha]
      · have : ¬ a % 4096 = (s.I.toNat + n) % 4096 := by omega
        rw [if_neg this]
        exact ih.1 k (by omega) ha
    · rw [if_neg (ha n (by omega))]
      exact ih.2 (fun k hk => ha k (by omega))

/-- What a register load leaves in the registers: `V[k]` holds the byte at `I + k` for `k < n`, the rest is as before. -/
theorem State.v_loadV {n : Nat} (hn : n ≤ 16) (x : Reg) :
    (s.loadV n).v x = if x.val < n then s.memRead (s.I.toNat + x.val) else s.v x := by
  induction n with
  | zero => simp [State.loadV]
  | succ n ih =>
    rw [State.loadV_succ, (s.onlyV_loadV n).memRead, (s.onlyV_loadV n).dataAddr, State.dataAddr]
    have hx : x = Fin.ofNat 16 n ↔ x.val = n := by
      simp only [Fin.ext_iff, Fin.ofNat]
      omega
    rw [State.v_setV, ih (by omega)]
    by_cases h : x.val = n
    · rw [if_pos (hx.2 h), if_pos (by omega), h]
    · rw [if_neg (fun e => h (hx.1 e))]
      split <;> split <;> first | rfl | omega

end Sys2Proof.Machine
end

