-- ==== Sys2Proof/Laws/PerInstr.lean ====
section
/-! SUPPORT. Per-instruction laws: the word of every instruction matches that instruction's own row of the opcode map
(30_encoding.md R87, R88). -/

namespace Sys2Proof.Laws

/-- The number of an instruction's row in `opcodeMap`, from 0. -/
def rowIndex : Instr → Nat
  | .cls => 0
  | .ret => 1
  | .jp _ => 2
  | .call _ => 3
  | .seByte _ _ => 4
  | .sneByte _ _ => 5
  | .seReg _ _ => 6
  | .ldByte _ _ => 7
  | .addByte _ _ => 8
  | .ldReg _ _ => 9
  | .or _ _ => 10
  | .and _ _ => 11
  | .xor _ _ => 12
  | .addReg _ _ => 13
  | .sub _ _ => 14
  | .shr _ _ => 15
  | .subn _ _ => 16
  | .shl _ _ => 17
  | .sneReg _ _ => 18
  | .ldI _ => 19
  | .jpV0 _ => 20
  | .rnd _ _ => 21
  | .drw _ _ _ => 22
  | .skp _ => 23
  | .sknp _ => 24
  | .ldVxDT _ => 25
  | .ldVxK _ => 26
  | .ldDTVx _ => 27
  | .ldSTVx _ => 28
  | .addI _ => 29
  | .ldF _ => 30
  | .ldB _ => 31
  | .storeRegs _ => 32
  | .loadRegs _ => 33

/-- The family: the encoded word matches the row of its own instruction. -/
def MatchesOwnRow.Statement (i : Instr) : Prop :=
  ∃ r, opcodeMap[rowIndex i]? = some r ∧ r.matches (encode i) = true

/-- Four bits under an all-ones mask. -/
theorem and_ones (g : BitVec 4) : g &&& 0xF#4 = g := BitVec.and_allOnes

/-- A word of format A under the mask that keeps the group. -/
theorem wordA_mask (g : BitVec 4) (nnn : BitVec 12) : wordA g nnn &&& 0xF000#16 = g ++ 0x000#12 := by
  rw [show (0xF000#16 : Word) = 0xF#4 ++ 0x000#12 from rfl, wordA, BitVec.and_append, and_ones, BitVec.and_zero]

/-- A word of format I under the mask that keeps the group. -/
theorem wordI_mask (g : BitVec 4) (x : Reg) (nn : Byte) :
    wordI g x nn &&& 0xF000#16 = g ++ 0x0#4 ++ 0x00#8 := by
  rw [show (0xF000#16 : Word) = 0xF#4 ++ 0x0#4 ++ 0x00#8 from rfl, wordI, BitVec.and_append, BitVec.and_append,
    and_ones, BitVec.and_zero, BitVec.and_zero]

/-- A word of format S under the mask that keeps the group and the function byte. -/
theorem wordS_mask (g : BitVec 4) (x : Reg) (nn : Byte) :
    wordI g x nn &&& 0xF0FF#16 = g ++ 0x0#4 ++ nn := by
  rw [show (0xF0FF#16 : Word) = 0xF#4 ++ 0x0#4 ++ 0xFF#8 from rfl, wordI, BitVec.and_append, BitVec.and_append,
    and_ones, BitVec.and_zero, show nn &&& 0xFF#8 = nn from BitVec.and_allOnes]

/-- A word of format R under the mask that keeps the group and the function nibble. -/
theorem wordR_mask (g : BitVec 4) (x y : Reg) (n : BitVec 4) :
    wordD g x y n &&& 0xF00F#16 = g ++ 0x0#4 ++ 0x0#4 ++ n := by
  rw [show (0xF00F#16 : Word) = 0xF#4 ++ 0x0#4 ++ 0x0#4 ++ 0xF#4 from rfl, wordD, BitVec.and_append,
    BitVec.and_append, BitVec.and_append, and_ones, BitVec.and_zero, BitVec.and_zero, and_ones]

/-- A word of format D under the mask that keeps the group. -/
theorem wordD_mask (g : BitVec 4) (x y : Reg) (n : BitVec 4) :
    wordD g x y n &&& 0xF000#16 = g ++ 0x0#4 ++ 0x0#4 ++ 0x0#4 := by
  rw [show (0xF000#16 : Word) = 0xF#4 ++ 0x0#4 ++ 0x0#4 ++ 0x0#4 from rfl, wordD, BitVec.and_append,
    BitVec.and_append, BitVec.and_append, and_ones, BitVec.and_zero, BitVec.and_zero, BitVec.and_zero]

theorem MatchesOwnRow.cls : MatchesOwnRow.Statement (.cls) := ⟨_, rfl, rfl⟩
theorem MatchesOwnRow.ret : MatchesOwnRow.Statement (.ret) := ⟨_, rfl, rfl⟩
theorem MatchesOwnRow.jp (nnn : BitVec 12) : MatchesOwnRow.Statement (.jp nnn) :=
  ⟨_, rfl, beq_iff_eq.2 (wordA_mask _ _)⟩
theorem MatchesOwnRow.call (nnn : BitVec 12) : MatchesOwnRow.Statement (.call nnn) :=
  ⟨_, rfl, beq_iff_eq.2 (wordA_mask _ _)⟩
theorem MatchesOwnRow.seByte (x : Reg) (nn : Byte) : MatchesOwnRow.Statement (.seByte x nn) :=
  ⟨_, rfl, beq_iff_eq.2 (wordI_mask _ _ _)⟩
theorem MatchesOwnRow.sneByte (x : Reg) (nn : Byte) : MatchesOwnRow.Statement (.sneByte x nn) :=
  ⟨_, rfl, beq_iff_eq.2 (wordI_mask _ _ _)⟩
theorem MatchesOwnRow.seReg (x : Reg) (y : Reg) : MatchesOwnRow.Statement (.seReg x y) :=
  ⟨_, rfl, beq_iff_eq.2 (wordR_mask _ _ _ _)⟩
theorem MatchesOwnRow.ldByte (x : Reg) (nn : Byte) : MatchesOwnRow.Statement (.ldByte x nn) :=
  ⟨_, rfl, beq_iff_eq.2 (wordI_mask _ _ _)⟩
theorem MatchesOwnRow.addByte (x : Reg) (nn : Byte) : MatchesOwnRow.Statement (.addByte x nn) :=
  ⟨_, rfl, beq_iff_eq.2 (wordI_mask _ _ _)⟩
theorem MatchesOwnRow.ldReg (x : Reg) (y : Reg) : MatchesOwnRow.Statement (.ldReg x y) :=
  ⟨_, rfl, beq_iff_eq.2 (wordR_mask _ _ _ _)⟩
theorem MatchesOwnRow.or (x : Reg) (y : Reg) : MatchesOwnRow.Statement (.or x y) :=
  ⟨_, rfl, beq_iff_eq.2 (wordR_mask _ _ _ _)⟩
theorem MatchesOwnRow.and (x : Reg) (y : Reg) : MatchesOwnRow.Statement (.and x y) :=
  ⟨_, rfl, beq_iff_eq.2 (wordR_mask _ _ _ _)⟩
theorem MatchesOwnRow.xor (x : Reg) (y : Reg) : MatchesOwnRow.Statement (.xor x y) :=
  ⟨_, rfl, beq_iff_eq.2 (wordR_mask _ _ _ _)⟩
theorem MatchesOwnRow.addReg (x : Reg) (y : Reg) : MatchesOwnRow.Statement (.addReg x y) :=
  ⟨_, rfl, beq_iff_eq.2 (wordR_mask _ _ _ _)⟩
theorem MatchesOwnRow.sub (x : Reg) (y : Reg) : MatchesOwnRow.Statement (.sub x y) :=
  ⟨_, rfl, beq_iff_eq.2 (wordR_mask _ _ _ _)⟩
theorem MatchesOwnRow.shr (x : Reg) (y : Reg) : MatchesOwnRow.Statement (.shr x y) :=
  ⟨_, rfl, beq_iff_eq.2 (wordR_mask _ _ _ _)⟩
theorem MatchesOwnRow.subn (x : Reg) (y : Reg) : MatchesOwnRow.Statement (.subn x y) :=
  ⟨_, rfl, beq_iff_eq.2 (wordR_mask _ _ _ _)⟩
theorem MatchesOwnRow.shl (x : Reg) (y : Reg) : MatchesOwnRow.Statement (.shl x y) :=
  ⟨_, rfl, beq_iff_eq.2 (wordR_mask _ _ _ _)⟩
theorem MatchesOwnRow.sneReg (x : Reg) (y : Reg) : MatchesOwnRow.Statement (.sneReg x y) :=
  ⟨_, rfl, beq_iff_eq.2 (wordR_mask _ _ _ _)⟩
theorem MatchesOwnRow.ldI (nnn : BitVec 12) : MatchesOwnRow.Statement (.ldI nnn) :=
  ⟨_, rfl, beq_iff_eq.2 (wordA_mask _ _)⟩
theorem MatchesOwnRow.jpV0 (nnn : BitVec 12) : MatchesOwnRow.Statement (.jpV0 nnn) :=
  ⟨_, rfl, beq_iff_eq.2 (wordA_mask _ _)⟩
theorem MatchesOwnRow.rnd (x : Reg) (nn : Byte) : MatchesOwnRow.Statement (.rnd x nn) :=
  ⟨_, rfl, beq_iff_eq.2 (wordI_mask _ _ _)⟩
theorem MatchesOwnRow.drw (x : Reg) (y : Reg) (n : BitVec 4) : MatchesOwnRow.Statement (.drw x y n) :=
  ⟨_, rfl, beq_iff_eq.2 (wordD_mask _ _ _ _)⟩
theorem MatchesOwnRow.skp (x : Reg) : MatchesOwnRow.Statement (.skp x) :=
  ⟨_, rfl, beq_iff_eq.2 (wordS_mask _ _ _)⟩
theorem MatchesOwnRow.sknp (x : Reg) : MatchesOwnRow.Statement (.sknp x) :=
  ⟨_, rfl, beq_iff_eq.2 (wordS_mask _ _ _)⟩
theorem MatchesOwnRow.ldVxDT (x : Reg) : MatchesOwnRow.Statement (.ldVxDT x) :=
  ⟨_, rfl, beq_iff_eq.2 (wordS_mask _ _ _)⟩
theorem MatchesOwnRow.ldVxK (x : Reg) : MatchesOwnRow.Statement (.ldVxK x) :=
  ⟨_, rfl, beq_iff_eq.2 (wordS_mask _ _ _)⟩
theorem MatchesOwnRow.ldDTVx (x : Reg) : MatchesOwnRow.Statement (.ldDTVx x) :=
  ⟨_, rfl, beq_iff_eq.2 (wordS_mask _ _ _)⟩
theorem MatchesOwnRow.ldSTVx (x : Reg) : MatchesOwnRow.Statement (.ldSTVx x) :=
  ⟨_, rfl, beq_iff_eq.2 (wordS_mask _ _ _)⟩
theorem MatchesOwnRow.addI (x : Reg) : MatchesOwnRow.Statement (.addI x) :=
  ⟨_, rfl, beq_iff_eq.2 (wordS_mask _ _ _)⟩
theorem MatchesOwnRow.ldF (x : Reg) : MatchesOwnRow.Statement (.ldF x) :=
  ⟨_, rfl, beq_iff_eq.2 (wordS_mask _ _ _)⟩
theorem MatchesOwnRow.ldB (x : Reg) : MatchesOwnRow.Statement (.ldB x) :=
  ⟨_, rfl, beq_iff_eq.2 (wordS_mask _ _ _)⟩
theorem MatchesOwnRow.storeRegs (x : Reg) : MatchesOwnRow.Statement (.storeRegs x) :=
  ⟨_, rfl, beq_iff_eq.2 (wordS_mask _ _ _)⟩
theorem MatchesOwnRow.loadRegs (x : Reg) : MatchesOwnRow.Statement (.loadRegs x) :=
  ⟨_, rfl, beq_iff_eq.2 (wordS_mask _ _ _)⟩

end Sys2Proof.Laws
end

