-- ==== Sys2Proof/Laws/Step.lean ====
section
/-! SUPPORT. What the cycle and the choice of the next operation can do, and the small lemmas of `enter` and of frames. -/

namespace Sys2Proof.Machine

variable (s : State)

/-! ### The state an instruction executes in -/

theorem State.enter_eq (r : Byte) : s.enter r = { s with pc := s.pc + 2, rnd := r, out := .none } := rfl

@[simp] theorem State.enter_pc (r : Byte) : (s.enter r).pc = s.pc + 2 := rfl
@[simp] theorem State.enter_rnd (r : Byte) : (s.enter r).rnd = r := rfl
@[simp] theorem State.enter_out (r : Byte) : (s.enter r).out = .none := rfl
@[simp] theorem State.enter_mem (r : Byte) : (s.enter r).mem = s.mem := rfl
@[simp] theorem State.enter_I (r : Byte) : (s.enter r).I = s.I := rfl
@[simp] theorem State.enter_sp (r : Byte) : (s.enter r).sp = s.sp := rfl
@[simp] theorem State.enter_schedule (r : Byte) : (s.enter r).schedule = s.schedule := rfl
@[simp] theorem State.enter_draws (r : Byte) : (s.enter r).draws = s.draws := rfl
@[simp] theorem State.enter_v (r : Byte) (x : Reg) : (s.enter r).v x = s.v x := rfl
@[simp] theorem State.enter_memRead (r : Byte) (a : Nat) : (s.enter r).memRead a = s.memRead a := rfl

/-- During execution the instruction's own address is recovered from the advanced `pc` (R85). -/
@[simp] theorem State.instrAddr_enter (r : Byte) : (s.enter r).instrAddr = s.pc := by
  simp [State.instrAddr]

/-! ### Frames -/

theorem Frame.refl (changed : Element → Prop) : Frame s s changed := by
  intro e _
  cases e <;> rfl

/-- A frame that allows more follows from one that allows less. -/
theorem Frame.mono {s t : State} {p q : Element → Prop} (h : Frame s t p) (hpq : ∀ e, p e → q e) : Frame s t q :=
  fun e he => h e (fun hp => he (hpq e hp))

theorem Frame.trans {s t u : State} {p : Element → Prop} (h : Frame s t p) (k : Frame t u p) : Frame s u p := by
  intro e he
  have h1 := h e he
  have h2 := k e he
  cases e <;> exact h2.trans h1

/-! ### The cycle -/

/-- Every outcome of a cycle (R84): the decoded instruction executes, or the word matches no row. -/
theorem cycle_cases (r : Byte) :
    (∃ i, decode (s.fetchWord s.pc.toNat) = .ok i ∧ cycle r s = exec i (s.enter r)) ∨
    (∃ e, decode (s.fetchWord s.pc.toNat) = .error e ∧
      cycle r s = .next ((s.enter r).raise (.unknownInstruction (s.fetchWord s.pc.toNat) s.pc))) := by
  cases h : decode (s.fetchWord s.pc.toNat) with
  | ok i => exact .inl ⟨i, rfl, by simp only [cycle, h]⟩
  | error e => exact .inr ⟨e, rfl, by simp only [cycle, h]; rfl⟩

theorem nextOperation_nil (h : s.schedule = []) :
    nextOperation s = cycle (Config.randomByte s.draws) s.countDraw := by
  simp only [nextOperation, h]

theorem nextOperation_cons {op : HostOp} {ops : List HostOp} (h : s.schedule = op :: ops) :
    nextOperation s = operate op (s.setSchedule ops) := by
  simp only [nextOperation, h]

/-! ### The end of a program -/

/-- Finished is a jump to itself at `pc` (R231, log 18). -/
theorem State.finished_iff :
    s.finished = true ↔ ∃ nnn, decode (s.fetchWord s.pc.toNat) = .ok (.jp nnn) ∧ nnn.toNat = s.pc.toNat := by
  unfold State.finished
  split <;> simp_all

/-- Whether a program has finished is read from `pc` and memory alone. -/
theorem State.finished_congr {s t : State} (hpc : t.pc = s.pc) (hmem : t.mem = s.mem) : t.finished = s.finished := by
  simp only [State.finished, State.fetchWord, State.memRead, hpc, hmem]

/-! ### Host operations -/

/-- A timer's decrement (R191): by one, and 0 stays 0. -/
theorem countDown_toNat (b : Byte) : (countDown b).toNat = b.toNat - 1 := by
  have := b.isLt
  unfold countDown
  split
  · rw [BitVec.toNat_sub]
    simp
    omega
  · omega

/-- Every outcome of a load (R212, R213): it succeeds exactly on a well-formed image. -/
theorem doLoadProgram_out (bytes : List Byte) :
    (doLoadProgram bytes s).out = .loaded ↔ imageWellFormed bytes = true := by
  simp only [doLoadProgram, imageWellFormed, Bool.and_eq_true, decide_eq_true_eq]
  split
  · simp_all
  · split
    · simp_all
    · simp
      omega

/-! ### Placing a word -/

/-- A word placed at an address is fetched from it (R54, R65), also across the end of memory (R51). -/
theorem State.fetchWord_placeWord (a : Nat) (w : Word) : (s.placeWord a w).fetchWord a = w := by
  have h : ¬ a % 4096 = (a + 1) % 4096 := by omega
  simp [State.fetchWord, State.placeWord, State.memRead_memWrite, h, wordOfBytes_high_low]

end Sys2Proof.Machine
end

