-- ==== Sys2Proof/Tests/Slice0.lean ====
section
/-! SUPPORT. The model's own tests. Expected values are the spec's: the words are written out from the patterns of
30_encoding.md R88, the vectors (A-4a, M-5, ...) are those of 95_test_vectors.md, the examples those of the rules. -/

namespace Sys2Proof.Tests

open Sys2Proof.Machine

/-- The state an outcome goes on in, if it does. -/
def nextOf (o : Host.Outcome State Fault Refusal) : Option State :=
  match o with
  | .next s => some s
  | _ => none

/-- A fact read from the state after an instruction. -/
def after {α : Type} (i : Instr) (s : State) (f : State → α) : Option α := (nextOf (exec i s)).map f

/-- A fact read from the state after an operation. -/
def afterOp {α : Type} (op : HostOp) (s : State) (f : State → α) : Option α := (nextOf (operate op s)).map f

/-- The reset state with V1, V2 and VF set. -/
def regs (v1 v2 vf : Byte) : State := ((State.reset.setV 1 v1).setV 2 v2).setV VF vf

/-- V1, V2 and VF. -/
def regsOf (s : State) : Byte × Byte × Byte := (s.v 1, s.v 2, s.v VF)

/-- The reset state with one word at 0x200. -/
def atWord (w : Word) : State := State.reset.placeWord 0x200 w

/-! ### Words from R88, one for every constructor -/

theorem test_decode_control :
    decode 0x00EE#16 = .ok .ret ∧ decode 0x1234#16 = .ok (.jp 0x234#12) ∧ decode 0x2ABC#16 = .ok (.call 0xABC#12) ∧
    decode 0x332A#16 = .ok (.seByte 3 0x2A#8) ∧ decode 0x4F01#16 = .ok (.sneByte 15 0x01#8) ∧
    decode 0x5120#16 = .ok (.seReg 1 2) ∧ decode 0x9AB0#16 = .ok (.sneReg 10 11) ∧
    decode 0xB300#16 = .ok (.jpV0 0x300#12) := by decide

theorem test_decode_alu :
    decode 0x6A2F#16 = .ok (.ldByte 10 0x2F#8) ∧ decode 0x70FF#16 = .ok (.addByte 0 0xFF#8) ∧
    decode 0x8120#16 = .ok (.ldReg 1 2) ∧ decode 0x8121#16 = .ok (.or 1 2) ∧ decode 0x8122#16 = .ok (.and 1 2) ∧
    decode 0x8123#16 = .ok (.xor 1 2) ∧ decode 0x8124#16 = .ok (.addReg 1 2) ∧ decode 0x8125#16 = .ok (.sub 1 2) ∧
    decode 0x8126#16 = .ok (.shr 1 2) ∧ decode 0x8127#16 = .ok (.subn 1 2) ∧
    decode 0x812E#16 = .ok (.shl 1 2) := by decide

theorem test_decode_index :
    decode 0xA2F0#16 = .ok (.ldI 0x2F0#12) ∧ decode 0xF11E#16 = .ok (.addI 1) ∧ decode 0xF129#16 = .ok (.ldF 1) ∧
    decode 0xF533#16 = .ok (.ldB 5) ∧ decode 0xF255#16 = .ok (.storeRegs 2) ∧
    decode 0xFF65#16 = .ok (.loadRegs 15) := by decide

theorem test_decode_display :
    decode 0x00E0#16 = .ok .cls ∧ decode 0xD12F#16 = .ok (.drw 1 2 0xF#4) ∧ decode 0xDE10#16 = .ok (.drw 14 1 0#4) := by
  decide

theorem test_decode_input :
    decode 0xC30F#16 = .ok (.rnd 3 0x0F#8) ∧ decode 0xE29E#16 = .ok (.skp 2) ∧ decode 0xE2A1#16 = .ok (.sknp 2) ∧
    decode 0xF407#16 = .ok (.ldVxDT 4) ∧ decode 0xF00A#16 = .ok (.ldVxK 0) ∧ decode 0xF015#16 = .ok (.ldDTVx 0) ∧
    decode 0xF018#16 = .ok (.ldSTVx 0) := by decide

/-- E-1 to E-10: words that match no row. -/
theorem test_decode_unmatched :
    ([0x0000, 0x0123, 0x01E0, 0x00E1, 0x5121, 0x9AB1, 0x8128, 0xE19F, 0xF1FF, 0xF000, 0xFFFF] : List Word).all
      (fun w => decide (decode w = .error (.noRow w))) = true := by decide

/-- The table's numbering (bit 0 the least significant bit of the word) and the bytes as memory holds them. -/
theorem test_decodeTableWord :
    decodeTableWord 16 0x1234 = some (.jp 0x234#12) ∧ decodeBytes 0xA2#8 0xF0#8 = .ok (.ldI 0x2F0#12) ∧
    decodeTableWord 16 0x5121 = none := by decide

theorem test_encode_formats :
    encode (.jp 0x208#12) = 0x1208#16 ∧ encode (.seByte 3 0x2A#8) = 0x332A#16 ∧ encode (.shl 1 2) = 0x812E#16 ∧
    encode (.drw 2 15 5#4) = 0xD2F5#16 ∧ encode (.loadRegs 4) = 0xF465#16 := by decide

/-! ### Well-formedness: an ill-formed term for each check -/

/-- One word for each group of R90 is refused, its well-formed neighbour accepted. -/
theorem smoke_word_groups :
    ([0x00E1, 0x5121, 0x8128, 0x9AB1, 0xE19F, 0xF1FF] : List Word).all (fun w => !wordWellFormed w) = true ∧
    ([0x00E0, 0x5120, 0x8127, 0x9AB0, 0xE19E, 0xF155] : List Word).all wordWellFormed = true := by decide

/-- An empty image and one byte too many are refused (R213); 1 and 3584 bytes are accepted (R212). -/
theorem smoke_image_empty : imageWellFormed [] = false ∧ imageWellFormed [0x12] = true := by decide

theorem smoke_image_too_large :
    imageWellFormed (List.replicate 3585 0) = false ∧ imageWellFormed (List.replicate 3584 0) = true := by
  simp only [imageWellFormed, List.length_replicate]
  decide

/-! ### Control transfer -/

/-- R110's example. -/
theorem test_ret :
    after .ret { State.reset with stack := State.reset.stack.set 0 0x206, sp := 1 }
      (fun t => (t.sp, t.pc, t.stackAt 0)) = some (0, 0x206, 0x206) := by decide

/-- C-4. -/
theorem test_ret_underflow :
    afterOp (.step 0) (atWord 0x00EE) (fun t => (t.sp, t.pc, t.out)) =
      some (0, 0x202, .diagnostic (.stackUnderflow 0x200)) := by decide

/-- C-1, with the word in memory (E-11: big-endian). -/
theorem test_jp : afterOp (.step 0) (atWord 0x1234) (fun t => t.pc) = some 0x234 := by decide

/-- R112's example. -/
theorem test_call :
    after (.call 0x20E) { State.reset with pc := 0x206 } (fun t => (t.stackAt 0, t.sp, t.pc)) =
      some (0x206, 1, 0x20E) := by decide

/-- R112's overflow example. -/
theorem test_call_overflow :
    after (.call 0x400) { State.reset with pc := 0x252, sp := 16 } (fun t => (t.sp, t.pc, t.out)) =
      some (16, 0x252, .diagnostic (.stackOverflow 0x250)) := by decide

theorem test_call_last_entry :
    after (.call 0x400) { State.reset with sp := 15 } (fun t => (t.sp, t.stackAt 15, t.pc)) =
      some (16, 0x200, 0x400) := by decide

theorem test_seByte : after (.seByte 3 0x2A) ((State.reset.setV 3 0x2A).setPc 0x212) (fun t => t.pc) = some 0x214 := by
  decide

theorem test_sneByte : after (.sneByte 0 0x01) ((State.reset.setV 0 0x01).setPc 0x222) (fun t => t.pc) = some 0x222 := by
  decide

theorem test_seReg_same : after (.seReg 5 5) (State.reset.setPc 0xFFFE) (fun t => t.pc) = some 0x0000 := by decide

theorem test_sneReg : after (.sneReg 1 2) ((regs 1 2 0).setPc 0x242) (fun t => t.pc) = some 0x244 := by decide

/-- C-16: the sum is not masked. -/
theorem test_jpV0 : after (.jpV0 0xFFF) (State.reset.setV 0 0xFF) (fun t => t.pc) = some 0x10FE := by decide

/-! ### Loads and the ALU -/

theorem test_ldByte_vf : after (.ldByte VF 0x42) (regs 0 0 7) regsOf = some (0, 0, 0x42) := by decide

/-- A-2a. -/
theorem test_addByte : after (.addByte 1 2) (regs 0xFF 0 7) regsOf = some (1, 0, 7) := by decide

/-- A-3a. -/
theorem test_ldReg : after (.ldReg 1 2) (regs 0 0x77 5) regsOf = some (0x77, 0x77, 5) := by decide

/-- A-3c, A-3g. -/
theorem test_or : after (.or 1 2) (regs 0xF0 0x0F 7) regsOf = some (0xFF, 0x0F, 0) := by decide
theorem test_or_vf : after (.or VF 2) (regs 0 0x3C 0xC3) regsOf = some (0, 0x3C, 0) := by decide

/-- A-3d. -/
theorem test_and : after (.and 1 2) (regs 0xF0 0x3C 1) regsOf = some (0x30, 0x3C, 0) := by decide

/-- A-3e. -/
theorem test_xor : after (.xor 1 2) (regs 0xFF 0x0F 1) regsOf = some (0xF0, 0x0F, 0) := by decide

/-- A-4e, A-4g. -/
theorem test_addReg : after (.addReg 1 2) (regs 0x05 0xFE 0) regsOf = some (0x03, 0xFE, 1) := by decide
theorem test_addReg_vf : after (.addReg VF 2) (regs 0 0x64 0xC8) regsOf = some (0, 0x64, 0x65) := by decide

/-- A-5b, A-5g. -/
theorem test_sub : after (.sub 1 2) (regs 0x03 0xFE 1) regsOf = some (0x05, 0xFE, 0) := by decide
theorem test_sub_vf : after (.sub 1 VF) (regs 0x0A 0 3) regsOf = some (0x09, 0, 1) := by decide

/-- A-6a, A-6f. -/
theorem test_shr : after (.shr 1 2) (regs 0x55 0x06 0) regsOf = some (0x03, 0x06, 1) := by decide
theorem test_shr_vf : after (.shr VF 2) (regs 0 0x06 0) regsOf = some (0, 0x06, 1) := by decide

/-- A-7a, A-7f. -/
theorem test_subn_equal : after (.subn 1 2) (regs 5 5 1) regsOf = some (0, 5, 0) := by decide
theorem test_subn_vf : after (.subn 1 VF) (regs 2 0 9) regsOf = some (0xFF, 0, 1) := by decide

/-- A-8b, A-8h. -/
theorem test_shl : after (.shl 1 2) (regs 0x55 0x80 1) regsOf = some (0x00, 0x80, 0) := by decide
theorem test_shl_vf : after (.shl 1 VF) (regs 0 0 0x40) regsOf = some (0x80, 0, 1) := by decide

/-! ### Index register and memory -/

/-- M-1. -/
theorem test_ldI : after (.ldI 0xFFF) (State.reset.setI 0xFFFF) (fun t => t.I) = some 0x0FFF := by decide

/-- M-2: past 0xFFF, VF not written. -/
theorem test_addI : after (.addI 1) ((regs 5 0 7).setI 0xFFF) (fun t => (t.I, t.v VF)) = some (0x1004, 7) := by decide
theorem test_addI_wraps : after (.addI 1) ((regs 1 0 0).setI 0xFFFF) (fun t => t.I) = some 0 := by decide

/-- M-3c. -/
theorem test_ldF : after (.ldF 1) (regs 0xFF 0 0) (fun t => t.I) = some 0x4FB := by decide

/-- M-5: 157 across the end of memory. -/
theorem test_ldB :
    after (.ldB 1) ((regs 157 0 0).setI 0xFFE) (fun t => (t.memRead 0xFFE, t.memRead 0xFFF, t.memRead 0, t.I)) =
      some (1, 5, 7, 0xFFE) := by decide

/-- M-7. -/
theorem test_storeRegs :
    after (.storeRegs 1) (((State.reset.setV 0 0xAA).setV 1 0xBB).setI 0xFFF)
      (fun t => (t.memRead 0xFFF, t.memRead 0, t.memRead 1, t.I)) = some (0xAA, 0xBB, 0x90, 0x1001) := by decide

/-- R145's second example, and the register above `V[X]`. -/
theorem test_loadRegs :
    after (.loadRegs 1) (State.reset.setV 2 9) (fun t => (t.v 0, t.v 1, t.v 2, t.I)) = some (0xF0, 0x90, 9, 2) := by
  decide

/-! ### Display -/

theorem test_cls :
    after .cls ((State.reset.setPixel 3 4 true).setRedraw false) (fun t => (t.pixel 3 4, t.redraw)) =
      some (false, true) := by decide

/-- P4: row 0xC0 at (62, 31) sets (62, 31), (63, 31); row 0x81 falls on row 0 and sets (62, 0), (5, 0). -/
theorem test_drw :
    after (.drw 1 2 2) (((regs 62 31 7).setI 0x20C).placeWord 0x20C 0xC081)
      (fun t => ([t.pixel 62 31, t.pixel 63 31, t.pixel 0 31, t.pixel 62 0, t.pixel 5 0, t.pixel 63 0], t.v VF)) =
      some ([true, true, false, true, true, false], 0) := by decide

/-- V-7 and a collision: VF names both coordinates and is latched as 5; the pixel there was on. -/
theorem test_drw_vf :
    after (.drw VF VF 1) (((regs 0 0 5).setI 0x300).memWrite 0x300 0x80 |>.setPixel 5 5 true)
      (fun t => (t.pixel 5 5, t.v VF, t.redraw)) = some (false, 1, true) := by decide

/-! ### Random number, keys, timers -/

/-- K-8. -/
theorem test_rnd : afterOp (.step 0xA7) (atWord 0xC30F) (fun t => t.v 3) = some 0x07 := by decide

/-- K-3. -/
theorem test_skp : after (.skp 1) ((regs 0x15 0 0).setKeyAt 5 true) (fun t => t.pc) = some 0x202 := by decide

/-- K-6. -/
theorem test_sknp : after (.sknp 1) ((regs 0xF3 0 0).setKeyAt 3 true) (fun t => t.pc) = some 0x200 := by decide

theorem test_ldVxDT : after (.ldVxDT 1) (State.reset.setDT 0x2A) (fun t => t.v 1) = some 0x2A := by decide

/-- K-7: the least key; and no key. -/
theorem test_ldVxK :
    after (.ldVxK 4) ((State.reset.setKeyAt 9 true).setKeyAt 2 true) (fun t => (t.v 4, t.pc)) = some (2, 0x200) := by
  decide
theorem test_ldVxK_waits :
    afterOp (.step 0) (atWord 0xF40A) (fun t => (t.v 4, t.pc)) = some (0, 0x200) := by decide

theorem test_ldDTVx : after (.ldDTVx 1) (regs 0x3C 0 0) (fun t => (t.DT, t.ST)) = some (0x3C, 0) := by decide
theorem test_ldSTVx : after (.ldSTVx 1) (regs 0x3C 0 0) (fun t => (t.DT, t.ST)) = some (0, 0x3C) := by decide

/-! ### Operations and the step -/

/-- T-2, first tick. -/
theorem test_tick_tone :
    afterOp .tick ((State.reset.setST 1).setDT 3) (fun t => (t.DT, t.ST, t.out)) =
      some (2, 0, .toneRequest true) := by decide

/-- T-2, second tick: a timer at 0 stays, no tone. -/
theorem test_tick_zero :
    afterOp .tick State.reset (fun t => (t.DT, t.ST, t.out)) = some (0, 0, .toneRequest false) := by decide

/-- L-4. -/
theorem test_load_one_byte :
    afterOp (.loadProgram [0x12]) State.reset (fun t => (t.memRead 0x200, t.memRead 0x201, t.pc, t.out)) =
      some (0x12, 0, 0x200, .loaded) := by decide

/-- L-3. -/
theorem test_load_empty :
    afterOp (.loadProgram []) State.reset (fun t => (t.mem, t.out)) = some ([], .loadFailed .romEmpty) := by decide

/-- L-5: the image goes, the font and the redraw flag come back. -/
theorem test_reset_operation :
    afterOp .reset (((atWord 0x1208).memWrite 0 7).setRedraw false) (fun t => (t.mem, t.memRead 0, t.redraw)) =
      some ([], 0xF0, true) := by decide

/-- S7: font bytes of R59 at both ends of the region, and the first byte past it. -/
theorem test_reset_font :
    (State.reset.memRead 0, State.reset.memRead 0x23, State.reset.memRead 0x4F, State.reset.memRead 0x50) =
      (0xF0, 0xF0, 0x80, 0) := by decide

/-- E-13: the fetch wraps, each byte on its own. -/
theorem test_fetch_wraps :
    afterOp (.step 0) ((State.reset.setPc 0xFFF).memWrite 0xFFF 0x60) (fun t => (t.v 0, t.pc)) =
      some (0xF0, 0x1001) := by decide

/-- E-14, from `State.reset` itself with nothing scheduled. -/
theorem test_step_without_program :
    (nextOf (step State.reset)).map (fun t => (t.pc, t.out)) =
      some (0x202, .diagnostic (.unknownInstruction 0 0x200)) := by decide

/-- The schedule is performed in order, one operation a step. -/
theorem test_step_takes_schedule :
    (nextOf (step (State.reset.setSchedule [.setKey 3 true, .step 5]))).map (fun t => (t.keyAt 3, t.pc, t.schedule)) =
      some (true, 0x200, [.step 5]) := by decide

/-- The word placed by `withFetchWord` is run by the very next step, whatever else was scheduled. -/
theorem test_withFetchWord :
    (nextOf (step ((State.reset.setSchedule [.tick]).withFetchWord 16 0x6A2F))).map (fun t => t.v 10) = some 0x2F := by
  decide

/-- Writing back the reset byte unlists the cell: equal memories are equal data. -/
theorem test_memory_canonical :
    ((State.reset.memWrite 0x300 7).memWrite 0x10 1).mem = [(0x10, 1), (0x300, 7)] ∧
    ((State.reset.memWrite 0 7).memWrite 0x1000 0xF0).mem = [] := by decide

/-! ### Witnesses: a state and operands that meet all hypotheses of each statement that has some -/

theorem witness_encodeOfDecoded : decode 0x1208#16 = .ok (.jp 0x208#12) := by decide

theorem witness_noWordMatchesTwoRows :
    (⟨"00E0", 0xFFFF#16, 0x00E0#16⟩ : OpcodeRow) ∈ opcodeMap ∧
    (⟨"00E0", 0xFFFF#16, 0x00E0#16⟩ : OpcodeRow).matches 0x00E0 = true := by decide

theorem witness_stepPerformsNext :
    (State.reset.setSchedule [.tick]).schedule = .tick :: [] ∧ State.reset.schedule = [] := ⟨rfl, rfl⟩

theorem witness_stepRunsDecoded : decode ((atWord 0x1200).fetchWord (atWord 0x1200).pc.toNat) = .ok (.jp 0x200#12) := by
  decide

theorem witness_unmatched : wordWellFormed (State.reset.fetchWord State.reset.pc.toNat) = false := by decide

theorem witness_placedWord :
    decode (BitVec.ofNat 16 0x6A2F) = .ok (.ldByte 10 0x2F#8) ∧
    (State.reset.setSchedule [.tick, .step 7, .tick]).schedule = [.tick] ++ .step 7 :: [.tick] ∧
    (∀ op ∈ [HostOp.tick], ∀ q, op ≠ .step q) ∧
    (∀ op ∈ (State.reset.setSchedule [.tick]).schedule, ∀ q, op ≠ .step q) := by
  refine ⟨by decide, rfl, ?_, ?_⟩ <;> simp

theorem witness_diagnosed :
    afterOp (.step 0) State.reset (fun t => t.diagnosed) = some true := by decide

theorem witness_stepKeepsInv : Inv State.reset ∧ ∃ t, step State.reset = .next t := ⟨wf_reset, _, rfl⟩

theorem witness_canonical :
    Memory.wf [(0x200, 1), (0xFFF, 2)] ∧ cellGet [(0x200, 1), (0xFFF, 2)] 0xFFF = 2 := by decide

theorem witness_loadProgram :
    (1 ≤ ([0x12] : List Byte).length ∧ ([0x12] : List Byte).length ≤ 3584) ∧
    (1 ≤ (List.replicate 3584 (0 : Byte)).length ∧ (List.replicate 3584 (0 : Byte)).length ≤ 3584) := by
  simp only [List.length_replicate]
  decide

theorem witness_loadErrors :
    ([] : List Byte).length = 0 ∧ 3584 < (List.replicate 3585 (0 : Byte)).length := by
  simp only [List.length_replicate]
  decide

theorem witness_returnUndoesCall :
    State.reset.sp.val < 16 ∧ ({ State.reset with sp := 15 } : State).sp.val < 16 := by decide

theorem witness_jumpToSelf :
    (atWord 0x1200).schedule = [] ∧
    decode ((atWord 0x1200).fetchWord (atWord 0x1200).pc.toNat) = .ok (.jp 0x200#12) ∧
    (0x200#12).toNat = (atWord 0x1200).pc.toNat ∧
    HostOp.tick ≠ .reset ∧ ∀ bytes, HostOp.tick ≠ .loadProgram bytes := by
  refine ⟨by decide, by decide, by decide, by decide, by simp⟩

/-- R231's example of a finished program, and its bound: an address above 0xFFF is never the target of a 1NNN. -/
theorem test_finished :
    (atWord 0x1200).finished = true ∧ (atWord 0x1202).finished = false ∧
    ((atWord 0x1200).setPc 0x1200).finished = false := by decide

/-- Each of the three idle steps occurs. -/
theorem witness_onlyIdle :
    (atWord 0x1200).finished = true ∧
    (decode ((atWord 0xB200).fetchWord (atWord 0xB200).pc.toNat) = .ok (.jpV0 0x200#12) ∧
      ((atWord 0xB200).v 0).toNat + (0x200#12).toNat = (atWord 0xB200).pc.toNat) ∧
    decode ((atWord 0xF40A).fetchWord (atWord 0xF40A).pc.toNat) = .ok (.ldVxK 4) ∧
    ∀ k, (atWord 0xF40A).keyAt k = false := by decide

theorem witness_addRegisters :
    (200 = ((regs 200 56 0).v 1).toNat ∧ 56 = ((regs 200 56 0).v 2).toNat ∧ 1 = if 200 + 56 > 255 then 1 else 0) ∧
    (199 = ((regs 199 56 0).v 1).toNat ∧ 0 = if 199 + 56 > 255 then 1 else 0) := by decide

theorem witness_subtract :
    5 = ((regs 5 5 0).v 1).toNat ∧ 5 = ((regs 5 5 0).v 2).toNat ∧ 1 = if 5 ≥ 5 then 1 else 0 := by decide

theorem witness_reverseSubtract :
    5 = ((regs 5 5 0).v 1).toNat ∧ 5 = ((regs 5 5 0).v 2).toNat ∧ 0 = if 5 > 5 then 1 else 0 := by decide

theorem witness_onlyListedWrite :
    exec (.ldByte 3 1) State.reset = .next (State.reset.setV 3 1) ∧ (State.reset.setV 3 1).v 3 ≠ State.reset.v 3 :=
  ⟨rfl, by decide⟩

theorem witness_drawTwice : (0 : Reg) ≠ VF ∧ (14 : Reg) ≠ VF := by decide

theorem witness_rndIgnored :
    (∀ x nn, Instr.addI 1 ≠ .rnd x nn) ∧ exec (.addI 1) (regs 5 0 0) = .next ((regs 5 0 0).setI 5) :=
  ⟨by simp, rfl⟩

theorem witness_skipsOnKey : (5 : Key).val = ((regs 0x15 0 0).v 1).toNat % 16 := by decide

theorem witness_keyWaitIdle :
    decode ((atWord 0xF40A).fetchWord (atWord 0xF40A).pc.toNat) = .ok (.ldVxK 4) ∧
    ∀ k, (atWord 0xF40A).keyAt k = false := by decide

theorem witness_instructionsWrite :
    exec (.ldDTVx 1) (regs 9 0 0) = .next ((regs 9 0 0).setDT 9) ∧ ((regs 9 0 0).setDT 9).DT ≠ (regs 9 0 0).DT :=
  ⟨rfl, by decide⟩

theorem witness_instructionsWritePc :
    exec (.jp 0x300#12) State.reset = .next (State.reset.setPc 0x300) ∧
    (State.reset.setPc 0x300).pc ≠ State.reset.pc := ⟨rfl, by decide⟩

theorem witness_unobservable :
    exec (.ldByte 3 1) State.reset = .next (State.reset.setV 3 1) ∧
    exec (.ldSTVx 1) (regs 9 0 0) = .next ((regs 9 0 0).setST 9) ∧
    exec .cls State.reset = .next (State.reset.clearPixels.setRedraw true) := ⟨rfl, rfl, rfl⟩

theorem witness_tickCommutes : ∀ x, Instr.cls ≠ .ldVxDT x ∧ Instr.cls ≠ .ldDTVx x ∧ Instr.cls ≠ .ldSTVx x := by simp

end Sys2Proof.Tests
end

namespace Sys2Proof.Machine

/-! ## The state after `reset` (10_state.md R39) -/

/-- Memory reads as the reset image at every address. -/
theorem State.reset_memRead (a : Nat) : State.reset.memRead a = resetByte (a % 4096) := rfl

/-- The reset image is FONT_TABLE from 0x000 on and zero above it (R35, R59). -/
theorem resetByte_eq (a : Nat) : resetByte a = if a < 80 then fontTable.getD a 0 else 0 := by
  simp [resetByte, fontBase]

theorem State.reset_v (x : Reg) : State.reset.v x = 0 := by simp [State.v, State.reset]

theorem State.reset_stackAt (j : Fin 16) : State.reset.stackAt j = 0 := by simp [State.stackAt, State.reset]

theorem State.reset_pixel (x : Fin 64) (y : Fin 32) : State.reset.pixel x y = false := by
  simp [State.pixel, State.reset]

theorem State.reset_keyAt (k : Key) : State.reset.keyAt k = false := by simp [State.keyAt, State.reset]

/-- Settles O14: the reset memory lists no cell. -/
theorem resetMemoryIsCanonical : Obligations.ResetMemoryIsCanonical := wf_reset

/-- Settles O17, element by element. -/
theorem resetStateValues : Obligations.ResetStateValues := by
  refine ⟨fun a ha => ?_, State.reset_v, rfl, rfl, State.reset_stackAt, rfl, State.reset_pixel, rfl, rfl,
    State.reset_keyAt, rfl⟩
  rw [State.reset_memRead, Nat.mod_eq_of_lt ha, resetByte_eq]

end Sys2Proof.Machine

namespace Sys2Proof.Machine

/-! ## What an instruction may write (10_state.md R21, R23, R33, R36)

`Effect s i t` lists the ways in which an instruction changes the state, one constructor per way; `exec_answers_effect`
says that `exec` does nothing else. Every frame of an instruction follows from it by cases. -/

/-- `t` is a state that instruction `i` may leave when it executes in `s`. -/
inductive Effect (s : State) : Instr → State → Prop where
  /-- `pc` alone: jumps, skips, and the key wait that takes the fetch advance back. -/
  | flow {i : Instr} {w : Word} (hi : MayWritePc i) : Effect s i (s.setPc w)
  /-- General registers alone, and only those the instruction owns. -/
  | regs {i : Instr} {t : State} (ht : OnlyV s t) (hV : ∀ r, t.v r ≠ s.v r → MayWriteV r i) : Effect s i t
  /-- `I` alone. -/
  | index {i : Instr} {w : Word} (hi : (∃ a, i = .ldI a) ∨ ∃ x, i = .addI x ∨ i = .ldF x) : Effect s i (s.setI w)
  /-- FX15. -/
  | delay {x : Reg} {b : Byte} : Effect s (.ldDTVx x) (s.setDT b)
  /-- FX18. -/
  | sound {x : Reg} {b : Byte} : Effect s (.ldSTVx x) (s.setST b)
  /-- FX33: memory alone. -/
  | digits {x : Reg} {t : State} (ht : OnlyMem s t) : Effect s (.ldB x) t
  /-- FX55: memory and `I`. -/
  | store {x : Reg} {t : State} {w : Word} (ht : OnlyMem s t) : Effect s (.storeRegs x) (t.setI w)
  /-- FX65: registers up to `V[X]`, and `I`. -/
  | load {x : Reg} {t : State} {w : Word} (ht : OnlyV s t) (hV : ∀ r, t.v r ≠ s.v r → r ≤ x) :
      Effect s (.loadRegs x) (t.setI w)
  /-- 00E0. -/
  | clear : Effect s .cls (s.clearPixels.setRedraw true)
  /-- DXYN: framebuffer, VF and the redraw flag. -/
  | draw {x y : Reg} {n : BitVec 4} {t : State} (ht : OnlyDraw s t) : Effect s (.drw x y n) (t.setRedraw true)
  /-- 00EE with an entry held. -/
  | popped {j : Fin 17} {w : Word} (hj : j.val + 1 = s.sp.val) : Effect s .ret { s with sp := j, pc := w }
  /-- 00EE with the stack empty. -/
  | underflow {d : Diagnostic} : Effect s .ret (s.raise d)
  /-- 2NNN with room on the stack. -/
  | pushed {a : BitVec 12} {entries : Vector Word 16} {j : Fin 17} {w : Word} (hj : j.val = s.sp.val + 1) :
      Effect s (.call a) { s with stack := entries, sp := j, pc := w }
  /-- 2NNN with the stack full. -/
  | overflow {a : BitVec 12} {d : Diagnostic} : Effect s (.call a) (s.raise d)

section
variable {s : State} {i : Instr}

theorem Effect.setV {x : Reg} {b : Byte} (hx : MayWriteV x i) : Effect s i (s.setV x b) := by
  refine .regs ((OnlyV.refl s).set x b) fun r hr => ?_
  obtain rfl : r = x := by_contra fun hne => hr (s.v_setV_of_ne hne b)
  exact hx

/-- Two register writes, the shape of both statement orders of the ALU (R11). -/
theorem Effect.setV_setV {x y : Reg} {b c : Byte} (hx : MayWriteV x i) (hy : MayWriteV y i) :
    Effect s i ((s.setV x b).setV y c) := by
  refine .regs (((OnlyV.refl s).set x b).set y c) fun r hr => ?_
  by_cases hry : r = y
  · exact hry ▸ hy
  · by_cases hrx : r = x
    · exact hrx ▸ hx
    · exact absurd (((s.setV x b).v_setV_of_ne hry c).trans (s.v_setV_of_ne hrx b)) hr

theorem Effect.resultFirst {x : Reg} {flag : Byte → Byte} {b : Byte} (hx : MayWriteV x i) (hF : MayWriteV VF i) :
    Effect s i (s.resultFirst flag x b) :=
  .setV_setV hx hF

theorem Effect.flagFirst {x y : Reg} {flag op : Byte → Byte → Byte} (hx : MayWriteV x i) (hF : MayWriteV VF i) :
    Effect s i (s.flagFirst flag op x y) :=
  .setV_setV hF hx

theorem Effect.skipIf {c : Bool} (hi : MayWritePc i) : Effect s i (s.skipIf c) :=
  s.skipIf_eq c ▸ .flow hi

end

section
variable (s : State)

/-- A return, by what `pop` answers. -/
theorem exec_ret_effect : Answers (exec .ret s) (Effect s .ret) := by
  simp only [Answers, exec, execRet]
  cases h : s.pop with
  | none => exact ⟨_, rfl, .underflow⟩
  | some wt =>
    obtain ⟨_, hsp, _, ht⟩ := s.pop_spec (w := wt.1) (t := wt.2) h
    refine ⟨_, rfl, ?_⟩
    rw [ht]
    exact .popped hsp

/-- A call, by what `push` answers. -/
theorem exec_call_effect (a : BitVec 12) : Answers (exec (.call a) s) (Effect s (.call a)) := by
  simp only [Answers, exec, execCall]
  cases h : s.push s.pc with
  | none => exact ⟨_, rfl, .overflow⟩
  | some t =>
    obtain ⟨_, hsp, _, ht⟩ := s.push_spec h
    refine ⟨_, rfl, ?_⟩
    rw [ht]
    exact .pushed hsp

/-- The key wait, by whether a key is pressed. -/
theorem exec_ldVxK_effect (x : Reg) : Answers (exec (.ldVxK x) s) (Effect s (.ldVxK x)) := by
  simp only [Answers, exec, execLdVxK]
  cases s.lowestKey with
  | none => exact ⟨_, rfl, .flow trivial⟩
  | some k => exact ⟨_, rfl, .setV rfl⟩

theorem State.onlyDraw_drawSprite (x0 y0 n : Nat) : OnlyDraw s (s.drawSprite x0 y0 n) :=
  s.drawSprite_eq x0 y0 n ▸ s.onlyDraw_drawCells _

theorem exec_drw_effect (x y : Reg) (n : BitVec 4) : Answers (exec (.drw x y n) s) (Effect s (.drw x y n)) := by
  have hclear : OnlyDraw s (s.setV VF 0) := ⟨rfl, fun z hz => s.v_setV_of_ne hz 0⟩
  exact ⟨_, rfl, .draw (hclear.trans (State.onlyDraw_drawSprite _ _ _ _))⟩

theorem exec_loadRegs_effect (x : Reg) : Answers (exec (.loadRegs x) s) (Effect s (.loadRegs x)) := by
  refine ⟨_, rfl, .load (s.onlyV_loadV _) fun r hr => by_contra fun hle => hr ?_⟩
  rw [s.v_loadV x.isLt, if_neg (fun hlt => hle (Nat.le_of_lt_succ hlt))]

/-- Every instruction answers, and what it leaves is one of the ways of `Effect`. -/
theorem exec_answers_effect : ∀ i : Instr, Answers (exec i s) (Effect s i)
  | .cls => ⟨_, rfl, .clear⟩
  | .ret => exec_ret_effect s
  | .call a => exec_call_effect s a
  | .jp _ | .jpV0 _ => ⟨_, rfl, .flow trivial⟩
  | .seByte _ _ | .sneByte _ _ | .seReg _ _ | .sneReg _ _ | .skp _ | .sknp _ => ⟨_, rfl, .skipIf trivial⟩
  | .ldByte _ _ | .addByte _ _ | .ldReg _ _ | .rnd _ _ | .ldVxDT _ => ⟨_, rfl, .setV rfl⟩
  | .or _ _ | .and _ _ | .xor _ _ | .shr _ _ | .shl _ _ => ⟨_, rfl, .resultFirst (.inl rfl) (.inr rfl)⟩
  | .addReg _ _ | .sub _ _ | .subn _ _ => ⟨_, rfl, .flagFirst (.inl rfl) (.inr rfl)⟩
  | .drw x y n => exec_drw_effect s x y n
  | .ldVxK x => exec_ldVxK_effect s x
  | .ldDTVx _ => ⟨_, rfl, .delay⟩
  | .ldSTVx _ => ⟨_, rfl, .sound⟩
  | .ldI a => ⟨_, rfl, .index (.inl ⟨a, rfl⟩)⟩
  | .addI x => ⟨_, rfl, .index (.inr ⟨x, .inl rfl⟩)⟩
  | .ldF x => ⟨_, rfl, .index (.inr ⟨x, .inr rfl⟩)⟩
  | .ldB _ => ⟨_, rfl, .digits ((((OnlyMem.refl s).write _ _).write _ _).write _ _)⟩
  | .storeRegs _ => ⟨_, rfl, .store (s.onlyMem_storeV _)⟩
  | .loadRegs x => exec_loadRegs_effect s x

end

variable {s t : State} {i : Instr}

theorem exec_effect (h : exec i s = .next t) : Effect s i t := by
  obtain ⟨u, hu, he⟩ := exec_answers_effect s i
  cases hu.symm.trans h
  exact he

/-- A register that differs after an effect is one the instruction owns. -/
theorem Effect.mayWriteV (he : Effect s i t) {r : Reg} (hr : t.v r ≠ s.v r) : MayWriteV r i := by
  cases he with
  | regs _ hV => exact hV r hr
  | load _ hV => exact hV r hr
  | draw ht => exact by_contra fun hne => hr (ht.2 r hne)
  | digits ht => exact absurd (ht.v r) hr
  | store ht => exact absurd (ht.v r) hr
  | _ => exact absurd rfl hr

/-- Settles O40: `Effect` says which registers each way of changing the state may touch. -/
theorem onlyListedInstructionsWriteRegisters : Obligations.OnlyListedInstructionsWriteRegisters :=
  fun _ _ _ h _ hr => (exec_effect h).mayWriteV hr

/-- Settles O57, by the ways in which an instruction changes the state. -/
theorem instructionsWriteOnlyWhatTheyOwn : Obligations.InstructionsWriteOnlyWhatTheyOwn := by
  intro i s t h
  have hV := fun r => (exec_effect h).mayWriteV (r := r)
  cases exec_effect h with
  | flow hi => simp [hi]
  | index hi =>
    obtain ⟨a, rfl⟩ | ⟨x, rfl | rfl⟩ := hi <;> simp
  | regs ht | digits ht | store ht | load ht => rw [ht] at hV ⊢; simpa using hV
  | draw ht => rw [ht.1] at hV ⊢; simpa using hV
  | popped hj | pushed hj => simpa [MayWritePc, hj] using hV
  | delay | sound | clear | underflow | overflow => simp

end Sys2Proof.Machine

namespace Sys2Proof.Machine

/-! ## What no instruction reads (10_state.md R30, R32)

`s.withAside p` is `s` with the timers, the redraw flag, the random input and the output of `p`: what an instruction
does with them is only to overwrite them (`asideAfter`), apart from FX07 and CXNN, which each read one. -/

/-- `s` with the timers, the redraw flag, the random input and the output of `p`. -/
def State.withAside (s p : State) : State :=
  { s with DT := p.DT, ST := p.ST, redraw := p.redraw, rnd := p.rnd, out := p.out }

/-- What instruction `i`, executed in `s`, makes of the elements of `withAside` where they were those of `p`. -/
def asideAfter (s p : State) : Instr → State
  | .cls | .drw _ _ _ => p.setRedraw true
  | .ldDTVx x => p.setDT (s.v x)
  | .ldSTVx x => p.setST (s.v x)
  | .ret => if s.sp.val = 0 then p.raise (.stackUnderflow s.instrAddr) else p
  | .call _ => if s.sp.val = 16 then p.raise (.stackOverflow s.instrAddr) else p
  | _ => p

/-- `p` has what instruction `i` reads of these elements in `s`: `DT` for FX07, the random input for CXNN. -/
def AsideReadAlike (s p : State) : Instr → Prop
  | .ldVxDT _ => p.DT = s.DT
  | .rnd _ _ => p.rnd = s.rnd
  | _ => True

section
variable (s p : State)

@[simp] theorem State.withAside_self : s.withAside s = s := rfl

theorem State.setV_withAside (x : Reg) (b : Byte) : (s.withAside p).setV x b = (s.setV x b).withAside p := rfl

theorem State.skipIf_withAside (c : Bool) : (s.withAside p).skipIf c = (s.skipIf c).withAside p := by
  cases c <;> rfl

theorem State.drawPixel_withAside (x : Fin 64) (y : Fin 32) :
    (s.withAside p).drawPixel x y = (s.drawPixel x y).withAside p := by
  have hpixel : (s.withAside p).pixel x y = s.pixel x y := rfl
  unfold State.drawPixel
  rw [hpixel]
  cases s.pixel x y <;> rfl

theorem State.drawCells_withAside (cells : List Pixel) :
    ∀ s : State, (s.withAside p).drawCells cells = (s.drawCells cells).withAside p := by
  induction cells with
  | nil => exact fun _ => rfl
  | cons c cells ih =>
    intro s
    simp only [State.drawCells, List.foldl_cons, State.drawPixel_withAside] at ih ⊢
    exact ih _

theorem State.drawSprite_withAside (x0 y0 n : Nat) :
    (s.withAside p).drawSprite x0 y0 n = (s.drawSprite x0 y0 n).withAside p := by
  rw [State.drawSprite_eq, State.drawSprite_eq]
  exact State.drawCells_withAside p (s.spriteCells x0 y0 n) s

theorem State.storeV_withAside (n : Nat) : (s.withAside p).storeV n = (s.storeV n).withAside p := by
  induction n with
  | zero => rfl
  | succ n ih => rw [State.storeV_succ, State.storeV_succ, ih]; rfl

theorem State.loadV_withAside (n : Nat) : (s.withAside p).loadV n = (s.loadV n).withAside p := by
  induction n with
  | zero => rfl
  | succ n ih => rw [State.loadV_succ, State.loadV_succ, ih]; rfl

end

/-- Of two runs of `i` that differ in the elements of `withAside` at the start, from `s` and from `s.withAside p`, the
second ends in the state of the first but for those elements, which are what `asideAfter` says. -/
def RunsAside (s p : State) (i : Instr) : Prop :=
  Answers (exec i s) fun t => exec i (s.withAside p) = .next (t.withAside (asideAfter s p i))

section
variable (s p : State)

theorem runsAside_ret : RunsAside s p .ret := by
  by_cases h : s.sp.val = 0
  · refine ⟨s.raise (.stackUnderflow s.instrAddr), ?_, ?_⟩
    · simp only [exec, execRet, s.pop_eq_none_iff.2 h]
    · simp only [exec, execRet, (s.withAside p).pop_eq_none_iff.2 h, asideAfter, if_pos h]
      rfl
  · have hpos : 0 < s.sp.val := Nat.pos_of_ne_zero h
    refine ⟨_, by simp only [exec, execRet, s.pop_of_pos hpos]; rfl, ?_⟩
    simp only [exec, execRet, (s.withAside p).pop_of_pos hpos, asideAfter, if_neg h]
    rfl

theorem runsAside_call (a : BitVec 12) : RunsAside s p (.call a) := by
  by_cases h : s.sp.val = 16
  · refine ⟨s.raise (.stackOverflow s.instrAddr), ?_, ?_⟩
    · simp only [exec, execCall, (s.push_eq_none_iff _).2 h]
    · simp only [exec, execCall, ((s.withAside p).push_eq_none_iff _).2 h, asideAfter, if_pos h]
      rfl
  · have hlt : s.sp.val < 16 := by omega
    refine ⟨_, by simp only [exec, execCall, s.push_of_lt _ hlt]; rfl, ?_⟩
    simp only [exec, execCall, (s.withAside p).push_of_lt _ hlt, asideAfter, if_neg h]
    rfl

theorem runsAside_ldVxK (x : Reg) : RunsAside s p (.ldVxK x) := by
  have hkey : (s.withAside p).lowestKey = s.lowestKey := rfl
  simp only [RunsAside, Answers, exec, execLdVxK, hkey]
  cases s.lowestKey <;> exact ⟨_, rfl, rfl⟩

/-- Every instruction runs alike from `s` and from `s.withAside p`, as far as they agree in what it reads. -/
theorem exec_runsAside : ∀ i : Instr, AsideReadAlike s p i → RunsAside s p i
  | .ret, _ => runsAside_ret s p
  | .call a, _ => runsAside_call s p a
  | .ldVxK x, _ => runsAside_ldVxK s p x
  | .seByte _ _, _ | .sneByte _ _, _ | .seReg _ _, _ | .sneReg _ _, _ | .skp _, _ | .sknp _, _ =>
    ⟨_, rfl, congrArg Host.Outcome.next (s.skipIf_withAside p _)⟩
  | .drw _ _ _, _ =>
    ⟨_, rfl, by simp only [exec, execDrw, State.setV_withAside, State.drawSprite_withAside]; rfl⟩
  | .storeRegs _, _ => ⟨_, rfl, by simp only [exec, execStoreRegs, State.storeV_withAside]; rfl⟩
  | .loadRegs _, _ => ⟨_, rfl, by simp only [exec, execLoadRegs, State.loadV_withAside]; rfl⟩
  | .ldVxDT x, hDT =>
    ⟨_, rfl, congrArg (fun b => Host.Outcome.next ((s.withAside p).setV x b)) hDT⟩
  | .rnd x nn, hrnd =>
    ⟨_, rfl, congrArg (fun b => Host.Outcome.next ((s.withAside p).setV x (b &&& nn))) hrnd⟩
  | .cls, _ | .jp _, _ | .jpV0 _, _ | .ldByte _ _, _ | .addByte _ _, _ | .ldReg _ _, _ | .or _ _, _ | .and _ _, _
  | .xor _ _, _ | .addReg _ _, _ | .sub _ _, _ | .shr _ _, _ | .subn _ _, _ | .shl _ _, _ | .ldI _, _
  | .ldDTVx _, _ | .ldSTVx _, _ | .addI _, _ | .ldF _, _ | .ldB _, _ => ⟨_, rfl, rfl⟩

theorem asideReadAlike_self (i : Instr) : AsideReadAlike s s i := by
  unfold AsideReadAlike
  split <;> trivial

end

variable {s t : State} {i : Instr}

theorem exec_withAside {p : State} (hp : AsideReadAlike s p i) (h : exec i s = .next t) :
    exec i (s.withAside p) = .next (t.withAside (asideAfter s p i)) := by
  obtain ⟨u, hu, hrun⟩ := exec_runsAside s p i hp
  cases hu.symm.trans h
  exact hrun

/-- The case of one run: what an instruction leaves in these elements. -/
theorem exec_aside (h : exec i s = .next t) : t.withAside (asideAfter s s i) = t := by
  have hself := exec_withAside (asideReadAlike_self s i) h
  rw [State.withAside_self, h] at hself
  injection hself with ht
  exact ht.symm

/-- What differs between `p` and `q` is all that can differ between states that hold them aside. -/
theorem Frame.withAside {p q : State} {changed : Element → Prop} (t : State) (h : Frame p q changed) :
    Frame (t.withAside p) (t.withAside q) changed := by
  intro e he
  cases e with
  | DT | ST | redraw | rnd | out => exact h _ he
  | _ => rfl

/-- What an instruction writes into an element held aside does not depend on what was there: two runs differ at most where
they differed before. -/
theorem frame_asideAfter (s : State) {p q : State} {changed : Element → Prop} (h : Frame p q changed) (i : Instr) :
    Frame (asideAfter s p i) (asideAfter s q i) changed := by
  intro e he
  have hpq := h e he
  cases i with
  | cls | drw _ _ _ => cases e with | redraw => rfl | _ => exact hpq
  | ldDTVx x => cases e with | DT => rfl | _ => exact hpq
  | ldSTVx x => cases e with | ST => rfl | _ => exact hpq
  | ret | call _ =>
    simp only [asideAfter]
    split
    · cases e with | out => rfl | _ => exact hpq
    · exact hpq
  | _ => exact hpq

theorem asideAfter_ST (s p : State) (hi : ∀ x, i ≠ .ldSTVx x) : (asideAfter s p i).ST = p.ST := by
  cases i with
  | ldSTVx x => exact absurd rfl (hi x)
  | ret | call _ => simp only [asideAfter]; split <;> rfl
  | _ => rfl

theorem asideAfter_redraw (s p : State) (hcls : i ≠ .cls) (hdrw : ∀ x y n, i ≠ .drw x y n) :
    (asideAfter s p i).redraw = p.redraw := by
  cases i with
  | cls => exact absurd rfl hcls
  | drw x y n => exact absurd rfl (hdrw x y n)
  | ret | call _ => simp only [asideAfter]; split <;> rfl
  | _ => rfl

/-- Settles O58: the second run holds `ST` and `redraw` aside. -/
theorem soundTimerAndRedrawAreUnobservable : Obligations.SoundTimerAndRedrawAreUnobservable := by
  intro i s t b c h
  have hread : AsideReadAlike s ((s.setST b).setRedraw c) i := asideReadAlike_self s i
  have hput : Frame s ((s.setST b).setRedraw c) (fun e => e = .ST ∨ e = .redraw) := by
    intro e he
    cases e with
    | ST | redraw => simp at he
    | _ => rfl
  have ht := exec_aside h
  have hframe := (frame_asideAfter s hput i).withAside t
  rw [ht] at hframe
  refine ⟨_, exec_withAside hread h, hframe, ?_, asideAfter_ST _ _, ?_, fun hcls hdrw => ⟨?_, ?_⟩⟩
  · rintro ⟨x, rfl⟩
    exact show s.v x = t.ST from congrArg State.ST ht
  · rintro (rfl | ⟨x, y, n, rfl⟩) <;> exact ⟨rfl, (congrArg State.redraw ht).symm⟩
  · exact asideAfter_redraw _ _ hcls hdrw
  · exact (congrArg State.redraw ht).symm.trans (asideAfter_redraw _ _ hcls hdrw)

end Sys2Proof.Machine

namespace Sys2Proof.Machine

/-! ## Memory cells and the canonical form (20_memory.md R50 to R54, log 25) -/

/-- Settles O8: R54's byte order, as a number. -/
theorem fetchIsBigEndian : Obligations.FetchIsBigEndian :=
  fun s a => wordOfBytes_toNat (s.memRead a) (s.memRead (a + 1))

/-- A memory write touches nothing but the cell its address reduces to (R51, R52). -/
theorem State.frame_memWrite (s : State) (a : Nat) (v : Byte) :
    Frame s (s.memWrite a v) (fun e => ∃ c : Fin 4096, e = .mem c ∧ c.val = a % 4096) := by
  intro e he
  cases e with
  | mem c =>
    have hc : ¬ c.val % 4096 = a % 4096 := fun h => he ⟨c, rfl, (Nat.mod_eq_of_lt c.isLt).symm.trans h⟩
    exact (s.memRead_memWrite a v c.val).trans (if_neg hc)
  | _ => rfl

/-- Settles O16: the read after a write, and the frame of the write. -/
theorem memoryWriteChangesOneCell : Obligations.MemoryWriteChangesOneCell :=
  fun s a v => ⟨s.memRead_memWrite a v, s.frame_memWrite a v⟩

/-- An address that no cell lists reads as its reset value. -/
theorem cellGet_of_not_listed {m : Memory} {a : Nat} (h : ∀ c ∈ m, c.1 ≠ a) : cellGet m a = resetByte a := by
  induction m with
  | nil => rfl
  | cons c m ih =>
    have hne : ¬ a = c.1 := (h c List.mem_cons_self).symm
    exact (if_neg hne).trans (ih fun d hd => h d (List.mem_cons_of_mem c hd))

/-- A listed cell is the one its address reads. -/
theorem cellGet_of_mem {m : Memory} (hm : m.Pairwise (fun c d => c.1 < d.1)) {c : Host.Cell} (hc : c ∈ m) :
    cellGet m c.1 = c.2 := by
  induction m with
  | nil => exact absurd hc List.not_mem_nil
  | cons d m ih =>
    obtain ⟨hd, hm⟩ := List.pairwise_cons.1 hm
    obtain rfl | hc := List.mem_cons.1 hc
    · exact if_pos rfl
    · exact (if_neg (hd c hc).ne').trans (ih hm hc)

/-- What a canonical memory lists is read off its reads: the cells in range that differ from their reset value. -/
theorem Memory.wf.mem_iff {m : Memory} (hm : m.wf) (c : Host.Cell) :
    c ∈ m ↔ c.1 < Config.memSize ∧ c.2 ≠ resetByte c.1 ∧ cellGet m c.1 = c.2 := by
  obtain ⟨hsorted, hcells⟩ := hm
  constructor
  · exact fun hc => ⟨(hcells c hc).1, (hcells c hc).2, cellGet_of_mem hsorted hc⟩
  · rintro ⟨_, hreset, hget⟩
    by_contra hc
    refine hreset (hget.symm.trans (cellGet_of_not_listed fun d hd hdc => hc ?_))
    have hval : c.2 = d.2 := hget.symm.trans (hdc ▸ cellGet_of_mem hsorted hd)
    exact (Prod.ext hdc.symm hval : c = d) ▸ hd

/-- Settles O15: such memories list the same cells, and rising order leaves one list of them. -/
theorem canonicalMemoriesThatReadAlikeAreEqual : Obligations.CanonicalMemoriesThatReadAlikeAreEqual := by
  intro m n hm hn hread
  have : Std.Irrefl (fun c d : Host.Cell => c.1 < d.1) := ⟨fun c => lt_irrefl c.1⟩
  have : Std.Antisymm (fun c d : Host.Cell => c.1 < d.1) := ⟨fun _ _ h k => absurd h k.asymm⟩
  refine hm.1.eq_of_mem_iff hn.1 fun c => ?_
  rw [hm.mem_iff, hn.mem_iff]
  exact and_congr_right fun hc => by rw [hread c.1 hc]

/-! ## Every operation keeps the canonical form (log 25)

Of the instructions, only FX33 and FX55 write memory (R62), and they write it by `memWrite`. -/

section
variable {s t : State} {i : Instr}

theorem OnlyV.mem (h : OnlyV s t) : t.mem = s.mem := by rw [h]

theorem OnlyDraw.mem (h : OnlyDraw s t) : t.mem = s.mem := by rw [h.1]

theorem Effect.mem_eq (he : Effect s i t) (hdigits : ∀ x, i ≠ .ldB x) (hstore : ∀ x, i ≠ .storeRegs x) :
    t.mem = s.mem := by
  cases he with
  | digits => exact absurd rfl (hdigits _)
  | store => exact absurd rfl (hstore _)
  | regs ht | load ht | draw ht => exact ht.mem
  | _ => rfl

theorem exec_keeps_inv (hs : Inv s) (h : exec i s = .next t) : Inv t := by
  cases i with
  | ldB x =>
    cases h
    exact State.wf_memWrite _ (State.wf_memWrite _ (s.wf_memWrite hs _ _) _ _) _ _
  | storeRegs x =>
    cases h
    exact s.wf_storeV hs _
  | _ =>
    have hmem := (exec_effect h).mem_eq (by simp) (by simp)
    rwa [Inv, hmem]

theorem cycle_keeps_inv {r : Byte} (hs : Inv s) (h : cycle r s = .next t) : Inv t := by
  obtain ⟨i, _, hc⟩ | ⟨_, _, hc⟩ := cycle_cases s r
  · exact exec_keeps_inv (s := s.enter r) hs (hc.symm.trans h)
  · cases hc.symm.trans h
    exact hs

theorem doLoadProgram_keeps_inv (bytes : List Byte) (hs : Inv s) : Inv (doLoadProgram bytes s) := by
  unfold doLoadProgram
  split
  · exact hs
  · split
    · exact hs
    · exact State.wf_memWriteAll bytes s _ hs

theorem operate_keeps_inv {op : HostOp} (hs : Inv s) (h : operate op s = .next t) : Inv t := by
  cases op with
  | reset => cases h; exact wf_reset
  | loadProgram bytes => cases h; exact doLoadProgram_keeps_inv bytes hs
  | step r => exact cycle_keeps_inv hs h
  | _ => cases h; exact hs

end

/-- Settles O13: a step is one operation, and each operation keeps the form. -/
theorem stepKeepsMemoryCanonical : Obligations.StepKeepsMemoryCanonical := by
  intro s t hs h
  cases hsched : s.schedule with
  | nil => exact cycle_keeps_inv (s := s.countDraw) hs ((nextOperation_nil s hsched).symm.trans h)
  | cons op ops => exact operate_keeps_inv (s := s.setSchedule ops) hs ((nextOperation_cons s hsched).symm.trans h)

/-! ## The word `withFetchWord` places (R54, R65, log 26) -/

theorem highByte_toNat (w : Word) : (highByte w).toNat = w.toNat / 256 := by
  have := w.isLt
  simp only [highByte, BitVec.extractLsb'_toNat, Nat.shiftRight_eq_div_pow]
  omega

theorem lowByte_toNat (w : Word) : (lowByte w).toNat = w.toNat % 256 := by
  simp [lowByte]

/-! ### The schedule from its next `step` on -/

theorem HostOp.not_isStep_iff (op : HostOp) : (!op.isStep) = true ↔ ∀ q, op ≠ .step q := by
  cases op <;> simp [HostOp.isStep]

theorem dropToStep_eq_nil_iff (ops : List HostOp) : dropToStep ops = [] ↔ ∀ op ∈ ops, ∀ q, op ≠ .step q := by
  simp only [dropToStep, List.dropWhile_eq_nil_iff, HostOp.not_isStep_iff]

theorem dropToStep_append_step {before : List HostOp} (h : ∀ op ∈ before, ∀ q, op ≠ .step q) (r : Byte)
    (after : List HostOp) : dropToStep (before ++ .step r :: after) = .step r :: after := by
  have hdrop : ∀ op ∈ before, (!op.isStep) = true := fun op hop => op.not_isStep_iff.2 (h op hop)
  rw [dropToStep, List.dropWhile_append_of_pos hdrop]
  rfl

/-- What is left of the schedule is nothing, or begins with a `step`. -/
theorem dropToStep_cases (ops : List HostOp) :
    dropToStep ops = [] ∨ ∃ r after, dropToStep ops = .step r :: after := by
  induction ops with
  | nil => exact .inl rfl
  | cons op ops ih =>
    cases op with
    | step r => exact .inr ⟨r, ops, rfl⟩
    | _ => exact ih

/-! ### The two cells of the word -/

/-- `u` is `s` with `w` placed at `pc`, up to the schedule and the draw counter. -/
def HoldsPlacedWord (s : State) (w : Word) (u : State) : Prop :=
  u = { s.placeWord s.pc.toNat w with schedule := u.schedule, draws := u.draws }

section
variable {s u : State} {w : Word}

theorem HoldsPlacedWord.cycle_eq (h : HoldsPlacedWord s w u) {i : Instr} (hw : decode w = .ok i) (r : Byte) :
    cycle r u = exec i (u.enter r) := by
  have hfetch : u.fetchWord u.pc.toNat = w := by
    rw [h]
    exact s.fetchWord_placeWord s.pc.toNat w
  simp only [cycle, hfetch, hw]

theorem HoldsPlacedWord.memRead (h : HoldsPlacedWord s w u) (a : Nat) :
    u.memRead a = (s.placeWord s.pc.toNat w).memRead a := by
  rw [h]
  rfl

theorem HoldsPlacedWord.memRead_pc (h : HoldsPlacedWord s w u) : u.memRead s.pc.toNat = highByte w := by
  have hne : ¬ s.pc.toNat % 4096 = (s.pc.toNat + 1) % 4096 := by omega
  simp only [h.memRead, State.placeWord, State.memRead_memWrite, if_neg hne, if_true]

theorem HoldsPlacedWord.memRead_pc_succ (h : HoldsPlacedWord s w u) : u.memRead (s.pc.toNat + 1) = lowByte w := by
  simp only [h.memRead, State.placeWord, State.memRead_memWrite, if_true]

theorem HoldsPlacedWord.frame (h : HoldsPlacedWord s w u) :
    Frame s u (fun e => e = .schedule ∨ e = .draws ∨
      ∃ a : Fin 4096, e = .mem a ∧ (a.val = s.pc.toNat % 4096 ∨ a.val = (s.pc.toNat + 1) % 4096)) := by
  have hhigh := s.frame_memWrite s.pc.toNat (highByte w)
  have hlow := (s.memWrite s.pc.toNat (highByte w)).frame_memWrite (s.pc.toNat + 1) (lowByte w)
  have hrest : Frame (s.placeWord s.pc.toNat w) u (fun e => e = .schedule ∨ e = .draws) := by
    intro e he
    rw [h]
    cases e with
    | schedule | draws => simp at he
    | _ => rfl
  refine ((hhigh.mono ?_).trans (hlow.mono ?_)).trans (hrest.mono ?_)
  · rintro _ ⟨c, rfl, hc⟩
    exact .inr (.inr ⟨c, rfl, .inl hc⟩)
  · rintro _ ⟨c, rfl, hc⟩
    exact .inr (.inr ⟨c, rfl, .inr hc⟩)
  · exact fun e he => he.imp_right .inl

end

/-- The two bytes of a placed word that is given as a number, high byte first. -/
theorem HoldsPlacedWord.bytes_toNat {s u : State} {w : Nat} (h : HoldsPlacedWord s (BitVec.ofNat 16 w) u) :
    (u.memRead s.pc.toNat).toNat = w / 256 % 256 ∧ (u.memRead (s.pc.toNat + 1)).toNat = w % 256 := by
  rw [h.memRead_pc, h.memRead_pc_succ, highByte_toNat, lowByte_toNat, BitVec.toNat_ofNat]
  omega

/-- Settles O10, by whether a `step` is left in the schedule. -/
theorem placedWordIsRun : Obligations.PlacedWordIsRun := by
  intro s nbits w i hw
  set p := s.withFetchWord nbits w
  obtain hnone | ⟨r, after, hstep⟩ := dropToStep_cases s.schedule
  · have hu : HoldsPlacedWord s (BitVec.ofNat 16 w) p.countDraw := rfl
    obtain ⟨hhigh, hlow⟩ := hu.bytes_toNat
    refine ⟨p.countDraw, Config.randomByte s.draws, ?_, hhigh, hlow, ?_, fun _ => ⟨rfl, hnone, rfl⟩, hu.frame⟩
    · exact (nextOperation_nil p hnone).trans (hu.cycle_eq hw _)
    · intro before r' after hbefore hs
      rw [hs, dropToStep_append_step hbefore] at hnone
      cases hnone
  · have hu : HoldsPlacedWord s (BitVec.ofNat 16 w) (p.setSchedule after) := rfl
    obtain ⟨hhigh, hlow⟩ := hu.bytes_toNat
    refine ⟨p.setSchedule after, r, ?_, hhigh, hlow, ?_, fun hno => ?_, hu.frame⟩
    · exact (nextOperation_cons p hstep).trans (hu.cycle_eq hw _)
    · intro before r' after' hbefore hs
      rw [hs, dropToStep_append_step hbefore] at hstep
      cases hstep
      exact ⟨rfl, rfl, rfl⟩
    · rw [(dropToStep_eq_nil_iff _).2 hno] at hstep
      cases hstep

end Sys2Proof.Machine

namespace Sys2Proof

/-! ## The decoder against the encoder (30_encoding.md R81, R82, R86, R88) -/

/-- The decoder reads back the word of every instruction: the fields of a built word are the ones it was
built from, and they select the instruction's own branch. -/
theorem decode_encode (i : Instr) : decode (encode i) = .ok i := by
  cases i with
  | cls | ret => rfl
  | jp | call | ldI | jpV0 | seByte | sneByte | ldByte | addByte | rnd | drw => simp [encode, decode]
  | seReg => simp [encode, decode, decodeGroup5]
  | sneReg => simp [encode, decode, decodeGroup9]
  | skp | sknp => simp [encode, decode, decodeGroupE]
  | ldReg | or | and | xor | addReg | sub | shr | subn | shl => simp [encode, decode, decodeGroup8]
  | _ => simp [encode, decode, decodeGroupF]

/-- Settles O1, by the fields of each format's word. -/
theorem decodeOfEncodeIsInstruction : Obligations.DecodeOfEncodeIsInstruction := decode_encode

/-- Settles O5: each sample word is the encoding of its instruction. -/
theorem decodedSampleWords : Obligations.DecodedSampleWords :=
  ⟨decode_encode .cls, decode_encode .ret, decode_encode (.jp 0x208#12), decode_encode (.seByte 3 0x2A#8),
    decode_encode (.shl 1 2), decode_encode (.drw 2 15 5#4), decode_encode (.skp 2), decode_encode (.loadRegs 4),
    rfl, rfl⟩

/-! ### A word is built from its fields -/

section
variable {w : Word} {g n : BitVec 4} {nn : Byte}

theorem wordA_fields (hg : (fieldG w).toNat = g.toNat) : wordA g (fieldNNN w) = w := by
  apply BitVec.eq_of_toNat_eq
  rw [fieldG_toNat] at hg
  rw [wordA_toNat, fieldNNN_toNat]
  omega

theorem wordI_fields (hg : (fieldG w).toNat = g.toNat) (hnn : (fieldNN w).toNat = nn.toNat) :
    wordI g (fieldX w) nn = w := by
  apply BitVec.eq_of_toNat_eq
  rw [fieldG_toNat] at hg
  rw [fieldNN_toNat] at hnn
  rw [wordI_toNat, fieldX_val]
  omega

theorem wordD_fields (hg : (fieldG w).toNat = g.toNat) (hn : (fieldN w).toNat = n.toNat) :
    wordD g (fieldX w) (fieldY w) n = w := by
  apply BitVec.eq_of_toNat_eq
  rw [fieldG_toNat] at hg
  rw [fieldN_toNat] at hn
  rw [wordD_toNat, fieldX_val, fieldY_val]
  omega

end

section
variable {w : Word} {i : Instr}

theorem encode_of_decodeGroup0 (h : decodeGroup0 w = .ok i) : encode i = w := by
  unfold decodeGroup0 at h
  split at h
  case isTrue hw => cases h; exact hw.symm
  case isFalse =>
    split at h
    case isTrue hw => cases h; exact hw.symm
    case isFalse => cases h

theorem encode_of_decodeGroup5 (hg : (fieldG w).toNat = 0x5) (h : decodeGroup5 w = .ok i) : encode i = w := by
  unfold decodeGroup5 at h
  split at h
  case isTrue hn => cases h; exact wordD_fields hg (congrArg BitVec.toNat hn)
  case isFalse => cases h

theorem encode_of_decodeGroup9 (hg : (fieldG w).toNat = 0x9) (h : decodeGroup9 w = .ok i) : encode i = w := by
  unfold decodeGroup9 at h
  split at h
  case isTrue hn => cases h; exact wordD_fields hg (congrArg BitVec.toNat hn)
  case isFalse => cases h

theorem encode_of_decodeGroup8 (hg : (fieldG w).toNat = 0x8) (h : decodeGroup8 w = .ok i) : encode i = w := by
  unfold decodeGroup8 at h
  split at h <;> cases h
  all_goals exact wordD_fields hg ‹_›

theorem encode_of_decodeGroupE (hg : (fieldG w).toNat = 0xE) (h : decodeGroupE w = .ok i) : encode i = w := by
  unfold decodeGroupE at h
  split at h <;> cases h
  all_goals exact wordI_fields hg ‹_›

theorem encode_of_decodeGroupF (hg : (fieldG w).toNat = 0xF) (h : decodeGroupF w = .ok i) : encode i = w := by
  unfold decodeGroupF at h
  split at h <;> cases h
  all_goals exact wordI_fields hg ‹_›

/-- A word that decodes is the word of its instruction, group by group. -/
theorem encode_of_decode (h : decode w = .ok i) : encode i = w := by
  unfold decode at h
  split at h
  case h_1 => exact encode_of_decodeGroup0 h
  case h_6 hg => exact encode_of_decodeGroup5 hg h
  case h_9 hg => exact encode_of_decodeGroup8 hg h
  case h_10 hg => exact encode_of_decodeGroup9 hg h
  case h_15 hg => exact encode_of_decodeGroupE hg h
  case h_16 hg => exact encode_of_decodeGroupF hg h
  case h_2 hg | h_3 hg | h_11 hg | h_12 hg => cases h; exact wordA_fields hg
  case h_4 hg | h_5 hg | h_7 hg | h_8 hg | h_13 hg => cases h; exact wordI_fields hg rfl
  case h_14 hg => cases h; exact wordD_fields hg rfl
  case h_17 => cases h

end

/-- Settles O2: each branch of the decoder is taken on the literal digits it gives back to the encoder. -/
theorem encodeOfDecodedIsWord : Obligations.EncodeOfDecodedIsWord := fun _ _ => encode_of_decode

/-! ## The decoder against the opcode map (R87, R88)

Acceptance looks at no other digits of a word than the literal ones of its group's rows. -/

/-- The literal digits of the rows of a primary group. -/
def literalMask (g : BitVec 4) : Word :=
  match g.toNat with
  | 0x0 => 0xFFFF#16
  | 0x5 | 0x8 | 0x9 => 0xF00F#16
  | 0xE | 0xF => 0xF0FF#16
  | _ => 0xF000#16

/-- `literalMask` is read off the opcode map, and the decoder accepts the bare literal digits of each row. -/
theorem row_literals : ∀ r ∈ opcodeMap,
    fieldG r.mask = 0xF#4 ∧ r.mask = literalMask (fieldG r.value) ∧ (decode r.value).isOk = true := by
  decide

section
variable {w v : Word}

theorem fieldG_and (w m : Word) : fieldG (w &&& m) = fieldG w &&& fieldG m := BitVec.extractLsb'_and

theorem fieldN_of_mask (h : w &&& 0xF00F#16 = v &&& 0xF00F#16) : fieldN w = fieldN v := by
  have hN : ∀ u : Word, fieldN (u &&& 0xF00F#16) = fieldN u :=
    fun u => BitVec.extractLsb'_and.trans BitVec.and_allOnes
  rw [← hN w, ← hN v, h]

theorem fieldNN_of_mask (h : w &&& 0xF0FF#16 = v &&& 0xF0FF#16) : fieldNN w = fieldNN v := by
  have hNN : ∀ u : Word, fieldNN (u &&& 0xF0FF#16) = fieldNN u :=
    fun u => BitVec.extractLsb'_and.trans BitVec.and_allOnes
  rw [← hNN w, ← hNN v, h]

/-- Words of one group that agree in its literal digits are accepted or rejected alike. -/
theorem isOk_decode_congr (hg : fieldG w = fieldG v) (h : w &&& literalMask (fieldG w) = v &&& literalMask (fieldG w)) :
    (decode w).isOk = (decode v).isOk := by
  unfold decode
  rw [← hg]
  unfold literalMask at h
  split
  case h_1 hk =>
    simp only [hk] at h
    rw [show w = v from BitVec.and_allOnes.symm.trans (h.trans BitVec.and_allOnes)]
  case h_6 hk | h_9 hk | h_10 hk =>
    simp only [hk] at h
    simp only [decodeGroup5, decodeGroup8, decodeGroup9, fieldN_of_mask h]
    split <;> rfl
  case h_15 hk | h_16 hk =>
    simp only [hk] at h
    simp only [decodeGroupE, decodeGroupF, fieldNN_of_mask h]
    split <;> rfl
  all_goals rfl

/-- A word that matches a row is accepted, as the row's literal digits are. -/
theorem isOk_decode_of_matches {r : OpcodeRow} (hr : r ∈ opcodeMap) (hm : r.matches w = true) :
    (decode w).isOk = true := by
  obtain ⟨hgroup, hmask, hok⟩ := row_literals r hr
  have hw : w &&& r.mask = r.value := beq_iff_eq.1 hm
  have hg : fieldG w = fieldG r.value := by
    rw [← hw, fieldG_and, hgroup]
    exact BitVec.and_allOnes.symm
  rw [isOk_decode_congr hg, hok]
  rw [hg, ← hmask, ← hw, BitVec.and_assoc, BitVec.and_self]

end

/-- The word of every instruction matches its own row. -/
theorem Laws.MatchesOwnRow.all : ∀ i : Instr, Statement i
  | .cls => cls
  | .ret => ret
  | .jp nnn => jp nnn
  | .call nnn => call nnn
  | .seByte x nn => seByte x nn
  | .sneByte x nn => sneByte x nn
  | .seReg x y => seReg x y
  | .ldByte x nn => ldByte x nn
  | .addByte x nn => addByte x nn
  | .ldReg x y => ldReg x y
  | .or x y => or x y
  | .and x y => and x y
  | .xor x y => xor x y
  | .addReg x y => addReg x y
  | .sub x y => sub x y
  | .shr x y => shr x y
  | .subn x y => subn x y
  | .shl x y => shl x y
  | .sneReg x y => sneReg x y
  | .ldI nnn => ldI nnn
  | .jpV0 nnn => jpV0 nnn
  | .rnd x nn => rnd x nn
  | .drw x y n => drw x y n
  | .skp x => skp x
  | .sknp x => sknp x
  | .ldVxDT x => ldVxDT x
  | .ldVxK x => ldVxK x
  | .ldDTVx x => ldDTVx x
  | .ldSTVx x => ldSTVx x
  | .addI x => addI x
  | .ldF x => ldF x
  | .ldB x => ldB x
  | .storeRegs x => storeRegs x
  | .loadRegs x => loadRegs x

theorem wordWellFormed_encode (i : Instr) : wordWellFormed (encode i) = true := by
  obtain ⟨r, hr, hm⟩ := Laws.MatchesOwnRow.all i
  exact List.any_eq_true.2 ⟨r, List.mem_of_getElem? hr, hm⟩

/-- The decoder accepts exactly the well-formed words. -/
theorem decode_ok_iff (w : Word) : (∃ i, decode w = .ok i) ↔ wordWellFormed w = true := by
  constructor
  · rintro ⟨i, hi⟩
    exact encode_of_decode hi ▸ wordWellFormed_encode i
  · intro hw
    obtain ⟨r, hr, hm⟩ := List.any_eq_true.1 hw
    have hok := isOk_decode_of_matches hr hm
    cases hd : decode w with
    | ok i => exact ⟨i, rfl⟩
    | error e =>
      rw [hd] at hok
      cases hok

/-- Settles O3: a decoded word is its instruction's own, which matches its row; a word that matches a row is accepted
with that row's literal digits. -/
theorem decodeAcceptsExactlyMappedWords : Obligations.DecodeAcceptsExactlyMappedWords := decode_ok_iff

/-- Two rows whose values agree on the digits that both masks keep are one row. -/
theorem eq_of_row_values_agree :
    ∀ r ∈ opcodeMap, ∀ q ∈ opcodeMap, r.value &&& q.mask = q.value &&& r.mask → r = q := by
  decide

/-- Settles O4: a word that matches both rows makes their values agree where both masks look. -/
theorem noWordMatchesTwoRows : Obligations.NoWordMatchesTwoRows := by
  intro w r q hr hq hrw hqw
  have hrv : w &&& r.mask = r.value := beq_iff_eq.1 hrw
  have hqv : w &&& q.mask = q.value := beq_iff_eq.1 hqw
  refine eq_of_row_values_agree r hr q hq ?_
  rw [← hrv, ← hqv, BitVec.and_assoc, BitVec.and_assoc, BitVec.and_comm r.mask]

end Sys2Proof

namespace Sys2Proof.Machine

/-! ## One step (30_encoding.md R84, R85, R89) -/

section
variable (s : State) (r : Byte)

theorem State.enter_pc_toNat : (s.enter r).pc.toNat = (s.pc.toNat + 2) % 65536 := BitVec.toNat_add s.pc 2

/-- Entering an instruction touches `pc`, the random input and the output alone. -/
theorem State.frame_enter : Frame s (s.enter r) (fun e => e = .pc ∨ e = .rnd ∨ e = .out) := by
  intro e he
  cases e with
  | pc | rnd | out => simp at he
  | _ => rfl

/-- A diagnostic touches the output alone (R180). -/
theorem State.frame_raise (d : Diagnostic) : Frame s (s.raise d) (fun e => e = .out) := by
  intro e he
  cases e with
  | out => exact absurd rfl he
  | _ => rfl

theorem cycle_of_decode {i : Instr} (h : decode (s.fetchWord s.pc.toNat) = .ok i) : cycle r s = exec i (s.enter r) := by
  simp only [cycle, h]

theorem cycle_of_not_wellFormed (h : wordWellFormed (s.fetchWord s.pc.toNat) = false) :
    cycle r s = .next ((s.enter r).raise (.unknownInstruction (s.fetchWord s.pc.toNat) s.pc)) := by
  obtain ⟨i, hi, _⟩ | ⟨_, _, hc⟩ := cycle_cases s r
  · exact absurd ((decode_ok_iff _).1 ⟨i, hi⟩) (Bool.eq_false_iff.1 h)
  · exact hc

/-- A cycle completes: the instruction answers, or the word is reported. -/
theorem cycle_answers : ∃ t, cycle r s = .next t := by
  obtain ⟨i, _, hc⟩ | ⟨_, _, hc⟩ := cycle_cases s r
  · obtain ⟨t, ht, _⟩ := exec_answers_effect (s.enter r) i
    exact ⟨t, hc.trans ht⟩
  · exact ⟨_, hc⟩

theorem operate_answers (op : HostOp) : ∃ t, operate op s = .next t := by
  cases op with
  | step rnd => exact cycle_answers s rnd
  | _ => exact ⟨_, rfl⟩

end

/-- Settles O7, by the decoder's branch of the cycle. -/
theorem stepRunsDecodedInstruction : Obligations.StepRunsDecodedInstruction :=
  fun s r _ h => ⟨cycle_of_decode s r h, s.enter_pc_toNat r, rfl, rfl, s.frame_enter r⟩

/-- Settles O9: the step reports the word in the entered state. -/
theorem unmatchedWordOnlyAdvances : Obligations.UnmatchedWordOnlyAdvances := by
  intro s r h
  have hraise := (s.enter r).frame_raise (.unknownInstruction (s.fetchWord s.pc.toNat) s.pc)
  exact ⟨_, cycle_of_not_wellFormed s r h, s.enter_pc_toNat r, rfl,
    (s.frame_enter r).trans (hraise.mono fun _ he => .inr (.inr he))⟩

/-- Settles O11: a step is one operation, scheduled or free, and every operation answers. -/
theorem everyStateHasNextStep : Obligations.EveryStateHasNextStep := by
  intro s
  cases hsched : s.schedule with
  | nil =>
    obtain ⟨t, ht⟩ := cycle_answers s.countDraw (Config.randomByte s.draws)
    exact ⟨t, (nextOperation_nil s hsched).trans ht⟩
  | cons op ops =>
    obtain ⟨t, ht⟩ := operate_answers (s.setSchedule ops) op
    exact ⟨t, (nextOperation_cons s hsched).trans ht⟩

end Sys2Proof.Machine

namespace Sys2Proof.Machine

/-! ## Control transfer (40_control_flow.md R110 to R117) -/

/-- Widening keeps the value (R8). -/
theorem zext16_toNat {n : Nat} (hn : n ≤ 16) (v : BitVec n) : (zext16 v).toNat = v.toNat :=
  BitVec.toNat_setWidth_of_le hn

section
variable (s : State)

/-- Writing `pc` touches `pc` alone. -/
theorem State.frame_setPc (w : Word) : Frame s (s.setPc w) (fun e => e = .pc) := by
  intro e he
  cases e with
  | pc => exact absurd rfl he
  | _ => rfl

theorem State.skipIf_pc_toNat (c : Bool) :
    (s.skipIf c).pc.toNat = if c then (s.pc.toNat + 2) % 65536 else s.pc.toNat := by
  cases c with
  | true => exact BitVec.toNat_add s.pc 2
  | false => rfl

theorem State.frame_skipIf (c : Bool) : Frame s (s.skipIf c) (fun e => e = .pc) :=
  s.skipIf_eq c ▸ s.frame_setPc _

/-- A skip on an equality of bytes (R113, R115). -/
theorem State.skipIf_beq (a b : Byte) :
    (s.skipIf (a == b)).pc.toNat = (if a = b then (s.pc.toNat + 2) % 65536 else s.pc.toNat) ∧
      Frame s (s.skipIf (a == b)) (fun e => e = .pc) :=
  ⟨by simp only [State.skipIf_pc_toNat, beq_iff_eq], s.frame_skipIf _⟩

/-- A skip on an inequality of bytes (R114, R116). -/
theorem State.skipIf_bne (a b : Byte) :
    (s.skipIf (a != b)).pc.toNat = (if a = b then s.pc.toNat else (s.pc.toNat + 2) % 65536) ∧
      Frame s (s.skipIf (a != b)) (fun e => e = .pc) :=
  ⟨by simp only [State.skipIf_pc_toNat, bne_iff_ne, ite_not], s.frame_skipIf _⟩

/-! ### The call stack -/

/-- A pop, with `pc` written after it, touches `sp` and `pc` alone: the entry is not erased (R26). -/
theorem State.frame_pop_setPc {w : Word} {t : State} (h : s.pop = some (w, t)) (a : Word) :
    Frame s (t.setPc a) (fun e => e = .pc ∨ e = .sp) := by
  obtain ⟨_, _, _, ht⟩ := s.pop_spec h
  rw [ht]
  intro e he
  cases e with
  | pc | sp => simp at he
  | _ => rfl

/-- A push, with `pc` written after it, touches `pc`, `sp` and the entry at the old `sp` alone. -/
theorem State.frame_push_setPc {w : Word} {t : State} (h : s.push w = some t) (a : Word) :
    Frame s (t.setPc a)
      (fun e => e = .pc ∨ e = .sp ∨ ∃ j : Fin 16, e = .stack j ∧ j.val = s.sp.val) := by
  obtain ⟨_, _, hentry, ht⟩ := s.push_spec h
  intro e he
  cases e with
  | pc | sp => simp at he
  | stack j => exact (hentry j).trans (if_neg fun hj => he (.inr (.inr ⟨j, rfl, hj⟩)))
  | _ => rw [ht]; rfl

end

/-- Settles O26, by what `pop` answers. -/
theorem retPopsOrReports : Obligations.RetPopsOrReports := by
  intro s
  simp only [Answers, exec, execRet]
  cases h : s.pop with
  | none => exact ⟨_, rfl, .inl ⟨s.pop_eq_none_iff.1 h, rfl, s.frame_raise _⟩⟩
  | some wt =>
    obtain ⟨w, t⟩ := wt
    obtain ⟨hpos, hsp, hentry, _⟩ := s.pop_spec h
    refine ⟨_, rfl, .inr ⟨hpos, hsp, fun j hj => ?_, s.frame_pop_setPc h w⟩⟩
    exact hentry j (Nat.succ.inj (hj.trans hsp.symm))

/-- Settles O28, by what `push` answers. -/
theorem callPushesOrReports : Obligations.CallPushesOrReports := by
  intro nnn s
  simp only [Answers, exec, execCall]
  cases h : s.push s.pc with
  | none => exact ⟨_, rfl, .inl ⟨(s.push_eq_none_iff _).1 h, rfl, s.frame_raise _⟩⟩
  | some t =>
    obtain ⟨hroom, hsp, hentry, _⟩ := s.push_spec h
    refine ⟨_, rfl, .inr ⟨hroom, hsp, zext16_toNat (by decide) nnn, fun j hj => ?_, s.frame_push_setPc h _⟩⟩
    exact (hentry j).trans (if_pos hj)

/-- Settles O29: the pop finds the entry the push wrote, so `pc` and `sp`, which both instructions write, come back. -/
theorem returnUndoesCall : Obligations.ReturnUndoesCall := by
  intro nnn s hroom
  obtain ⟨t, hcall, ⟨hfull, _, _⟩ | ⟨_, hspt, _, hentry, hst⟩⟩ := callPushesOrReports nnn s
  · omega
  obtain ⟨u, hret, ⟨hempty, _, _⟩ | ⟨_, hspu, hpc, htu⟩⟩ := retPopsOrReports t
  · omega
  refine ⟨t, hcall, u, hret, fun e he => ?_⟩
  have hsp_back : u.sp = s.sp := Fin.ext (by omega)
  have hpc_back : u.pc = s.pc := (hpc ⟨s.sp.val, hroom⟩ hspt.symm).trans (hentry ⟨s.sp.val, hroom⟩ rfl)
  have hsu := hst.trans (htu.mono fun e he => he.imp_right .inl)
  by_cases hpc_e : e = .pc
  · exact hpc_e ▸ hpc_back
  by_cases hsp_e : e = .sp
  · exact hsp_e ▸ hsp_back
  exact hsu e (by simp only [hpc_e, hsp_e, false_or]; exact he)

/-! ### Jumps and skips -/

/-- Settles O27: the jump is one write of `pc`. -/
theorem jumpSetsPc : Obligations.JumpSetsPc :=
  fun nnn s => ⟨_, rfl, zext16_toNat (by decide) nnn, s.frame_setPc _⟩

/-- Settles O30: each is a skip on the comparison. -/
theorem skipsOnImmediate : Obligations.SkipsOnImmediate :=
  fun x nn s => ⟨⟨_, rfl, s.skipIf_beq (s.v x) nn⟩, ⟨_, rfl, s.skipIf_bne (s.v x) nn⟩⟩

/-- Settles O31: each is a skip on the comparison. -/
theorem skipsOnRegisters : Obligations.SkipsOnRegisters :=
  fun x y s => ⟨⟨_, rfl, s.skipIf_beq (s.v x) (s.v y)⟩, ⟨_, rfl, s.skipIf_bne (s.v x) (s.v y)⟩⟩

/-- Settles O32: a byte and a 12-bit address never sum to 65536. -/
theorem jumpWithOffset : Obligations.JumpWithOffset := by
  intro nnn s
  refine ⟨_, rfl, ?_, s.frame_setPc _⟩
  have hv := (s.v 0).isLt
  have hnnn := nnn.isLt
  rw [State.setPc_pc, BitVec.toNat_add, zext16_toNat (by decide), zext16_toNat (by decide)]
  omega

end Sys2Proof.Machine

namespace Sys2Proof.Machine

/-! ## A finished program (R231, log 18) -/

/-- `t` differs from `s` at most where an operation on a finished core may write: the timers, the keys, the redraw flag,
the random input and the output. -/
def OnlyIdle (s t : State) : Prop :=
  t = { s with DT := t.DT, ST := t.ST, key := t.key, redraw := t.redraw, rnd := t.rnd, out := t.out }

section
variable {s t : State}

theorem OnlyIdle.finished (h : OnlyIdle s t) (hs : s.finished = true) : t.finished = true := by
  have hpc : t.pc = s.pc := by rw [h]
  have hmem : t.mem = s.mem := by rw [h]
  exact (State.finished_congr hpc hmem).trans hs

theorem OnlyIdle.frame (h : OnlyIdle s t) :
    Frame s t (fun e => e = .DT ∨ e = .ST ∨ (∃ k, e = .key k) ∨ e = .redraw ∨ e = .rnd ∨ e = .out) := by
  intro e he
  rw [h]
  cases e with
  | DT | ST | key | redraw | rnd | out => simp at he
  | _ => rfl

/-- Two states that differ in the model's own fields alone agree on R20. -/
theorem sameElements_of_modelOwn
    (h : t = { s with rnd := t.rnd, draws := t.draws, schedule := t.schedule, out := t.out }) :
    SameElements s t := by
  intro e he
  rw [h]
  cases e with
  | rnd | draws | schedule | out => exact absurd trivial he
  | _ => rfl

/-- A cycle at a jump to itself: the jump takes the fetch advance back. -/
theorem cycle_of_finished (hs : s.finished = true) (r : Byte) : cycle r s = .next ((s.setRnd r).setOut .none) := by
  obtain ⟨nnn, hdec, hself⟩ := s.finished_iff.1 hs
  have hpc : zext16 nnn = s.pc := BitVec.eq_of_toNat_eq ((zext16_toNat (by decide) nnn).trans hself)
  calc cycle r s = exec (.jp nnn) (s.enter r) := cycle_of_decode s r hdec
    _ = .next ((s.enter r).setPc (zext16 nnn)) := rfl
    _ = .next ((s.enter r).setPc s.pc) := by rw [hpc]

/-- Every operation that neither resets nor loads leaves a finished core idle and reports nothing. -/
theorem operate_of_finished (hs : s.finished = true) {op : HostOp} (hreset : op ≠ .reset)
    (hload : ∀ bytes, op ≠ .loadProgram bytes) :
    Answers (operate op s) (fun t => OnlyIdle s t ∧ t.diagnosed = false) := by
  cases op with
  | reset => exact absurd rfl hreset
  | loadProgram bytes => exact absurd rfl (hload bytes)
  | step r => exact ⟨_, cycle_of_finished hs r, rfl, rfl⟩
  | _ => exact ⟨_, rfl, rfl, rfl⟩

/-- With nothing scheduled, a step of a finished core draws a random input and does nothing else. -/
theorem step_of_finished (hs : s.finished = true) (hsched : s.schedule = []) :
    step s = .next ((s.countDraw.setRnd (Config.randomByte s.draws)).setOut .none) :=
  (nextOperation_nil s hsched).trans (cycle_of_finished (s := s.countDraw) hs _)

end

theorem quietFor_of_finished (k : Nat) : ∀ {s : State}, s.finished = true → s.schedule = [] → quietFor k s = true := by
  induction k with
  | zero => exact fun _ _ => rfl
  | succ k ih =>
    intro s hs hsched
    simp only [quietFor, step_of_finished hs hsched]
    exact ih hs hsched

/-- Settles O33: a jump to itself is finished, and each clause is a fact about a finished core. -/
theorem jumpToSelfIdlesQuietly : Obligations.JumpToSelfIdlesQuietly := by
  intro s nnn hdec hself
  have hs : s.finished = true := s.finished_iff.2 ⟨nnn, hdec, hself⟩
  refine ⟨hs, fun r => ⟨_, cycle_of_finished hs r, sameElements_of_modelOwn rfl⟩, fun op hreset hload => ?_,
    fun hsched => ⟨⟨_, step_of_finished hs hsched, sameElements_of_modelOwn rfl⟩,
      fun k => quietFor_of_finished k hs hsched⟩⟩
  obtain ⟨t, ht, hidle, hquiet⟩ := operate_of_finished hs hreset hload
  exact ⟨t, ht, hidle.finished hs, hquiet, hidle.frame⟩

end Sys2Proof.Machine

namespace Sys2Proof.Machine

/-! ## Register loads and the ALU (41_alu.md R120 to R130, R134)

Each of the two statement orders gets one lemma that says what it leaves in `V[X]`, in VF and everywhere else; an
instruction then adds its own flag and operation. -/

section
variable (s : State)

/-- Writing a register touches that register alone. -/
theorem State.frame_setV (x : Reg) (b : Byte) : Frame s (s.setV x b) (fun e => e = .V x) := by
  intro e he
  cases e with
  | V z => exact s.v_setV_of_ne (fun hzx => he (congrArg Element.V hzx)) b
  | _ => rfl

/-- Two register writes touch those two registers alone. -/
theorem State.frame_setV_setV (x y : Reg) (b c : Byte) :
    Frame s ((s.setV x b).setV y c) (fun e => e = .V x ∨ e = .V y) :=
  ((s.frame_setV x b).mono fun _ => .inl).trans (((s.setV x b).frame_setV y c).mono fun _ => .inr)

/-! ### Result first (R123 to R125, R128, R130) -/

theorem State.resultFirst_writes (flag : Byte → Byte) (x : Reg) (r : Byte) :
    (x ≠ VF → (s.resultFirst flag x r).v x = r) ∧ (s.resultFirst flag x r).v VF = flag r ∧
      Frame s (s.resultFirst flag x r) (fun e => e = .V x ∨ e = .V VF) := by
  refine ⟨fun hx => ?_, ?_, s.frame_setV_setV _ _ _ _⟩
  · rw [State.resultFirst_v, if_neg hx, if_pos rfl]
  · rw [State.resultFirst_v, if_pos rfl]

/-- The result-first order in numbers. -/
theorem State.resultFirst_writes_toNat (x : Reg) {flag : Byte → Byte} {r : Byte} {n f : Nat} (hr : r.toNat = n)
    (hf : (flag r).toNat = f) :
    (x ≠ VF → ((s.resultFirst flag x r).v x).toNat = n) ∧ ((s.resultFirst flag x r).v VF).toNat = f ∧
      Frame s (s.resultFirst flag x r) (fun e => e = .V x ∨ e = .V VF) := by
  obtain ⟨hresult, hflag, hframe⟩ := s.resultFirst_writes flag x r
  exact ⟨fun hx => (congrArg BitVec.toNat (hresult hx)).trans hr, (congrArg BitVec.toNat hflag).trans hf, hframe⟩

/-! ### Flag first (R126, R127, R129) -/

/-- The flag-first order in numbers: where the flag is `f` and the operation is `opNat`, an operand that is VF is read
as `f`. -/
theorem State.flagFirst_writes_toNat (x y : Reg) {flag op : Byte → Byte → Byte} {f : Nat} (opNat : Nat → Nat → Nat)
    (hf : (flag (s.v x) (s.v y)).toNat = f) (hop : ∀ p q : Byte, (op p q).toNat = opNat p.toNat q.toNat) :
    ((s.flagFirst flag op x y).v x).toNat =
        opNat (if x = VF then f else (s.v x).toNat) (if y = VF then f else (s.v y).toNat) ∧
      (x ≠ VF → ((s.flagFirst flag op x y).v VF).toNat = f) ∧
      Frame s (s.flagFirst flag op x y) (fun e => e = .V x ∨ e = .V VF) := by
  refine ⟨?_, fun hx => ?_, (s.frame_setV_setV _ _ _ _).mono fun _ => .symm⟩
  · rw [State.flagFirst_v, if_pos rfl, hop, apply_ite BitVec.toNat, apply_ite BitVec.toNat, hf]
  · rw [State.flagFirst_v, if_neg (Ne.symm hx), if_pos rfl, hf]

end

/-! ### Operations on bytes as numbers -/

theorem byte_sub_toNat (p q : Byte) : (p - q).toNat = (p.toNat + 256 - q.toNat) % 256 := by
  have hq := q.isLt
  rw [BitVec.toNat_sub]
  omega

theorem byte_shr_one_toNat (p : Byte) : (p >>> 1).toNat = p.toNat / 2 := by
  rw [BitVec.toNat_ushiftRight, Nat.shiftRight_one]

theorem byte_shl_one_toNat (p : Byte) : (p <<< 1).toNat = 2 * p.toNat % 256 := by
  rw [BitVec.toNat_shiftLeft, Nat.shiftLeft_eq, Nat.mul_comm, Nat.pow_one]

/-- Bit 7 of a byte shifted left is bit 6 of the byte (C4, log 27). -/
theorem bit7Flag_shl_one_toNat (p : Byte) : (bit7Flag (p <<< 1)).toNat = p.toNat / 64 % 2 := by
  rw [bit7Flag_toNat, byte_shl_one_toNat]
  omega

/-- Bit 0 of a byte shifted right is bit 1 of the byte (C4, log 27). -/
theorem bit0Flag_shr_one_toNat (p : Byte) : (bit0Flag (p >>> 1)).toNat = p.toNat / 2 % 2 := by
  rw [bit0Flag_toNat, byte_shr_one_toNat]

/-! ### The instructions -/

/-- Settles O36: the flag-first order with the carry and the sum. -/
theorem addRegistersWithCarry : Obligations.AddRegistersWithCarry := by
  rintro x y s _ _ _ rfl rfl rfl
  exact ⟨_, rfl, s.flagFirst_writes_toNat x y (fun p q => (p + q) % 256) (carryFlag_toNat _ _) BitVec.toNat_add⟩

/-- Settles O37: the flag-first order with the not-borrow flag and the difference. -/
theorem subtractWithNotBorrow : Obligations.SubtractWithNotBorrow := by
  rintro x y s _ _ _ rfl rfl rfl
  exact ⟨_, rfl, s.flagFirst_writes_toNat x y (fun p q => (p + 256 - q) % 256) (notBorrowFlag_toNat _ _) byte_sub_toNat⟩

/-- Settles O38: the flag-first order with the strict flag and the reversed difference. -/
theorem reverseSubtractWithStrictFlag : Obligations.ReverseSubtractWithStrictFlag := by
  rintro x y s _ _ _ rfl rfl rfl
  exact ⟨_, rfl, s.flagFirst_writes_toNat x y (fun p q => (q + 256 - p) % 256) (strictFlag_toNat _ _)
    fun p q => byte_sub_toNat q p⟩

/-- Settles O39: the result-first order with the shifted byte and the bit taken from it. -/
theorem shiftsTakeFlagFromResult : Obligations.ShiftsTakeFlagFromResult :=
  fun x y s =>
    ⟨⟨_, rfl, s.resultFirst_writes_toNat x (byte_shr_one_toNat (s.v y)) (bit0Flag_shr_one_toNat (s.v y))⟩,
      ⟨_, rfl, s.resultFirst_writes_toNat x (byte_shl_one_toNat (s.v y)) (bit7Flag_shl_one_toNat (s.v y))⟩⟩

/-- Settles O34: each is one register write. -/
theorem registerLoadsAndImmediateAdd : Obligations.RegisterLoadsAndImmediateAdd := by
  intro x y nn s
  refine ⟨⟨_, rfl, s.v_setV_self x nn, s.frame_setV x nn⟩, ⟨_, rfl, ?_, s.frame_setV x _⟩,
    ⟨_, rfl, s.v_setV_self x (s.v y), s.frame_setV x _⟩⟩
  rw [State.v_setV_self, BitVec.toNat_add]

/-- Settles O35: the result-first order with the flag that is always 0. -/
theorem logicOperationsClearFlag : Obligations.LogicOperationsClearFlag :=
  fun x _ s => ⟨⟨_, rfl, s.resultFirst_writes clearedFlag x _⟩, ⟨_, rfl, s.resultFirst_writes clearedFlag x _⟩,
    ⟨_, rfl, s.resultFirst_writes clearedFlag x _⟩⟩

end Sys2Proof.Machine

namespace Sys2Proof.Machine

/-! ## The index register and the memory instructions (42_index_memory.md R140 to R145) -/

section
variable (s t : State)

/-! ### Writes to `I` -/

/-- Writing `I` touches `I` alone. -/
theorem State.frame_setI (w : Word) : Frame s (s.setI w) (fun e => e = .I) := by
  intro e he
  cases e with
  | I => exact absurd rfl he
  | _ => rfl

/-- Five times a byte is less than 65536, so a glyph address is not reduced. -/
theorem glyphAddr_toNat (b : Byte) : (glyphAddr b).toNat = fontBase + 5 * b.toNat := by
  have hb := b.isLt
  have hlt : fontBase + 5 * b.toNat < 2 ^ 16 := by
    simp only [fontBase]
    omega
  rw [glyphAddr, BitVec.toNat_ofNat, Nat.mod_eq_of_lt hlt]

theorem State.advanceI_I_toNat (x : Reg) : (s.advanceI x).I.toNat = (s.I.toNat + x.val + 1) % 65536 := by
  rw [State.advanceI, State.setI_I, BitVec.toNat_add, BitVec.toNat_ofNat, Nat.add_mod_mod, Nat.add_assoc]

/-! ### Writes to memory through `I` (R51) -/

/-- Offsets below 4096 name different cells, so a write through `I` changes the byte at its own offset alone. -/
theorem State.memRead_memWrite_dataAddr {j k : Nat} (hj : j < 4096) (hk : k < 4096) (v : Byte) :
    (t.memWrite (s.dataAddr k) v).memRead (s.dataAddr j) = if j = k then v else t.memRead (s.dataAddr j) := by
  have hcell : s.dataAddr j % 4096 = s.dataAddr k % 4096 ↔ j = k := by
    simp only [State.dataAddr]
    omega
  simp only [State.memRead_memWrite, hcell]

/-- A write through `I` touches one of the cells of the access. -/
theorem State.frame_memWrite_dataAddr {k n : Nat} (hk : k < n) (v : Byte) :
    Frame t (t.memWrite (s.dataAddr k) v) (IsDataByte s n) :=
  (t.frame_memWrite _ v).mono fun _ ⟨c, he, hc⟩ => ⟨k, hk, c, he, hc⟩

theorem IsDataByte.mono {s : State} {m n : Nat} (hmn : m ≤ n) {e : Element} : IsDataByte s m e → IsDataByte s n e :=
  fun ⟨k, hk, hcell⟩ => ⟨k, hk.trans_le hmn, hcell⟩

/-! ### Register transfers (R144, R145) -/

/-- A store of `n` registers touches the `n` cells from `I` on: each write goes through the `I` of the start. -/
theorem State.frame_storeV (n : Nat) : Frame s (s.storeV n) (IsDataByte s n) := by
  induction n with
  | zero => exact Frame.refl s _
  | succ n ih =>
    rw [State.storeV_succ, (s.onlyMem_storeV n).dataAddr]
    exact (ih.mono fun _ => IsDataByte.mono n.le_succ).trans (s.frame_memWrite_dataAddr _ n.lt_succ_self _)

/-- A load of `n` registers touches the registers below `n` alone. -/
theorem State.frame_loadV {n : Nat} (hn : n ≤ 16) :
    Frame s (s.loadV n) (fun e => ∃ k : Reg, k.val < n ∧ e = .V k) := by
  intro e he
  cases e with
  | V k => exact (s.v_loadV hn k).trans (if_neg fun hk => he ⟨k, hk, rfl⟩)
  | _ => rw [s.onlyV_loadV n]; rfl

end

/-- Settles O41: the instruction is one write of `I`, and widening keeps the literal. -/
theorem loadIndexLiteral : Obligations.LoadIndexLiteral :=
  fun nnn s => ⟨_, rfl, zext16_toNat (by decide) nnn, s.frame_setI _⟩

/-- Settles O42: the instruction is one write of `I`, by the sum of words. -/
theorem addToIndex : Obligations.AddToIndex := by
  intro x s
  refine ⟨_, rfl, ?_, s.frame_setI _⟩
  rw [State.setI_I, BitVec.toNat_add, zext16_toNat (by decide)]

/-- Settles O43: the instruction is one write of `I`, by the glyph address. -/
theorem glyphAddressOfRegister : Obligations.GlyphAddressOfRegister :=
  fun x s => ⟨_, rfl, glyphAddr_toNat (s.v x), s.frame_setI _⟩

/-- Settles O44: three writes through `I` at different offsets, each of a number below 256. -/
theorem decimalDigitsAreStored : Obligations.DecimalDigitsAreStored := by
  intro x s
  have hv := (s.v x).isLt
  refine ⟨_, rfl, ?hundreds, ?tens, ?ones, ?frame⟩
  case hundreds | tens | ones =>
    simp only [State.memRead_memWrite_dataAddr, Nat.reduceLT, Nat.reduceEqDiff, reduceIte, BitVec.toNat_ofNat]
    omega
  case frame =>
    exact ((s.frame_memWrite_dataAddr s (by decide) _).trans (s.frame_memWrite_dataAddr _ (by decide) _)).trans
      (s.frame_memWrite_dataAddr _ (by decide) _)

/-- Settles O45: the store puts each register at its offset, and advancing `I` leaves memory. -/
theorem registersAreStored : Obligations.RegistersAreStored := by
  intro x s
  refine ⟨_, rfl, fun k hk => ?_, ?_,
    ((s.frame_storeV _).mono fun _ => .inl).trans ((State.frame_setI _ _).mono fun _ => .inr)⟩
  · have hread := (s.memRead_storeV x.isLt (s.dataAddr k.val)).1 k.val (Nat.lt_succ_of_le hk) rfl
    rwa [Fin.ofNat_val_eq_self] at hread
  · rw [State.advanceI_I_toNat, s.onlyMem_storeV _]

/-- Settles O46: the load fills each register from its offset, and advancing `I` leaves the registers. -/
theorem registersAreLoaded : Obligations.RegistersAreLoaded := by
  intro x s
  have hload : Frame s (s.loadV (x.val + 1)) (fun e => (∃ k : Reg, k ≤ x ∧ e = .V k) ∨ e = .I) :=
    (s.frame_loadV x.isLt).mono fun _ ⟨k, hk, he⟩ => .inl ⟨k, Nat.le_of_lt_succ hk, he⟩
  refine ⟨_, rfl, fun k hk => ?_, ?_, hload.trans ((State.frame_setI _ _).mono fun _ => .inr)⟩
  · exact (s.v_loadV x.isLt k).trans (if_pos (Nat.lt_succ_of_le hk))
  · rw [State.advanceI_I_toNat, s.onlyV_loadV _]

end Sys2Proof.Machine

namespace Sys2Proof.Machine

/-! ## The framebuffer instructions (43_display.md R150 to R153) -/

section
variable {s t : State}

/-! ### Frames of the display operations -/

/-- Clearing the screen touches pixels alone. -/
theorem State.frame_clearPixels (s : State) : Frame s s.clearPixels (fun e => ∃ p q, e = .fb p q) := by
  intro e he
  cases e with
  | fb p q => exact absurd ⟨p, q, rfl⟩ he
  | _ => rfl

/-- Writing the redraw flag touches that flag alone. -/
theorem State.frame_setRedraw (s : State) (b : Bool) : Frame s (s.setRedraw b) (fun e => e = .redraw) := by
  intro e he
  cases e with
  | redraw => exact absurd rfl he
  | _ => rfl

/-- Toggling cells touches pixels and VF alone. -/
theorem OnlyDraw.frame (h : OnlyDraw s t) : Frame s t (fun e => (∃ p q, e = .fb p q) ∨ e = .V VF) := by
  obtain ⟨hfields, hV⟩ := h
  intro e he
  cases e with
  | fb p q => exact absurd (.inl ⟨p, q, rfl⟩) he
  | V r => exact hV r fun hr => he (.inr (congrArg Element.V hr))
  | _ => rw [hfields]; rfl

/-- A draw leaves memory and `I`, so the sprite stays where it was. -/
theorem OnlyDraw.spriteCells (h : OnlyDraw s t) (x0 y0 n : Nat) : t.spriteCells x0 y0 n = s.spriteCells x0 y0 n := by
  simp only [State.spriteCells, h.memRead, h.dataAddr]

/-! ### The cells of a draw -/

/-- The cells a draw lists are the pixels that set sprite bits hit (R152). -/
theorem State.mem_spriteCells_iff_spriteHits (s : State) {x0 y0 n : Nat} {p : Fin 64} {q : Fin 32} :
    (p, q) ∈ s.spriteCells x0 y0 n ↔ SpriteHits s x0 y0 n p q := by
  simp only [s.mem_spriteCells, SpriteHits, spriteBit, spriteMsbLeft, if_true, Prod.mk.injEq, Fin.ext_iff,
    Fin.val_ofNat, eq_comm]

/-- The cells `DRW Vx, Vy, n` toggles in `s`, from the coordinates latched before VF is cleared (D10, log 10). -/
def State.drwCells (s : State) (x y : Reg) (n : BitVec 4) : List Pixel :=
  s.spriteCells (s.v x).toNat (s.v y).toNat n.toNat

theorem State.nodup_drwCells (s : State) (x y : Reg) (n : BitVec 4) : (s.drwCells x y n).Nodup :=
  s.nodup_spriteCells _ _ (Nat.le_of_lt_succ n.isLt)

/-- A later draw of the same sprite toggles the same cells, unless a coordinate is held in VF. -/
theorem OnlyDraw.drwCells (h : OnlyDraw s t) {x y : Reg} (hx : x ≠ VF) (hy : y ≠ VF) (n : BitVec 4) :
    t.drwCells x y n = s.drwCells x y n := by
  rw [State.drwCells, h.spriteCells, h.2 x hx, h.2 y hy, State.drwCells]

end

section
variable (s : State) (x y : Reg) (n : BitVec 4)

/-! ### The draw before the redraw flag is set -/

/-- `s` with VF cleared and then the cells of the sprite toggled. -/
def State.drw : State := (s.setV VF 0).drawCells (s.drwCells x y n)

theorem exec_drw : exec (.drw x y n) s = .next ((s.drw x y n).setRedraw true) :=
  congrArg (fun t => Host.Outcome.next (State.setRedraw t true)) ((s.setV VF 0).drawSprite_eq _ _ _)

theorem State.onlyDraw_drw : OnlyDraw s (s.drw x y n) :=
  OnlyDraw.trans ⟨rfl, fun _ hz => s.v_setV_of_ne hz 0⟩ (State.onlyDraw_drawCells _ _)

theorem State.pixel_drw (p : Fin 64) (q : Fin 32) :
    (s.drw x y n).pixel p q = if (p, q) ∈ s.drwCells x y n then !s.pixel p q else s.pixel p q :=
  State.pixel_drawCells _ p q (s.setV VF 0) (s.nodup_drwCells x y n)

theorem State.v_drw_VF :
    (s.drw x y n).v VF = if ∃ c ∈ s.drwCells x y n, s.pixel c.1 c.2 = true then 1 else 0 := by
  have h := State.v_drawCells_VF _ (s.setV VF 0) (s.nodup_drwCells x y n)
  rwa [State.v_setV_self] at h

theorem State.v_drw_VF_eq_one_iff :
    (s.drw x y n).v VF = 1 ↔ ∃ p q, (p, q) ∈ s.drwCells x y n ∧ s.pixel p q = true := by
  rw [State.v_drw_VF, ite_eq_left_iff, Prod.exists]
  simp

/-- A pixel changes exactly when a set sprite bit hits it. -/
theorem State.pixel_drw_ne_iff (p : Fin 64) (q : Fin 32) :
    (s.drw x y n).pixel p q ≠ s.pixel p q ↔ (p, q) ∈ s.drwCells x y n := by
  rw [State.pixel_drw]
  split <;> simp [*]

/-- A pixel that the draw turned on is one of its cells that was off. -/
theorem State.mem_drwCells_and_pixel_drw_iff (p : Fin 64) (q : Fin 32) :
    (p, q) ∈ s.drwCells x y n ∧ (s.drw x y n).pixel p q = true ↔
      s.pixel p q = false ∧ (s.drw x y n).pixel p q = true := by
  rw [State.pixel_drw]
  split <;> simp [*]

end

/-- Settles O47: every pixel is cleared, and then the flag is set. -/
theorem clearScreen : Obligations.ClearScreen :=
  fun s => ⟨_, rfl, s.pixel_clearPixels, rfl,
    (s.frame_clearPixels.mono fun _ => .inl).trans ((s.clearPixels.frame_setRedraw true).mono fun _ => .inr)⟩

/-- Settles O48: a draw toggles distinct cells, and they are the pixels hit. -/
theorem drawInvertsHitPixels : Obligations.DrawInvertsHitPixels := by
  intro x y n s
  refine ⟨_, exec_drw s x y n, fun p q hit => ?inverted, fun p q miss => ?kept, ?bit, ?collision, rfl, ?frame⟩
  case inverted =>
    exact (s.pixel_drw x y n p q).trans (if_pos (s.mem_spriteCells_iff_spriteHits.2 hit))
  case kept =>
    exact (s.pixel_drw x y n p q).trans (if_neg (mt s.mem_spriteCells_iff_spriteHits.1 miss))
  case bit =>
    rw [State.setRedraw_v, State.v_drw_VF]
    exact (ite_eq_or_eq _ _ _).symm
  case collision =>
    simpa only [State.setRedraw_v, State.drwCells, s.mem_spriteCells_iff_spriteHits] using s.v_drw_VF_eq_one_iff x y n
  case frame =>
    exact ((s.onlyDraw_drw x y n).frame.mono fun _ he => he.imp_right .inl).trans
      ((State.frame_setRedraw _ true).mono fun _ he => .inr (.inr he))

/-- Settles O49: both draws toggle the same cells. -/
theorem drawTwiceRestoresFramebuffer : Obligations.DrawTwiceRestoresFramebuffer := by
  intro x y n s hx hy
  have hcells : ((s.drw x y n).setRedraw true).drwCells x y n = s.drwCells x y n :=
    (s.onlyDraw_drw x y n).drwCells hx hy n
  refine ⟨_, exec_drw s x y n, _, exec_drw _ x y n, fun p q => ?restored, ?collision⟩
  case restored =>
    rw [State.setRedraw_pixel, State.pixel_drw, hcells, State.setRedraw_pixel, State.pixel_drw]
    split
    · exact Bool.not_not _
    · rfl
  case collision =>
    rw [State.setRedraw_v, State.v_drw_VF_eq_one_iff, hcells]
    simp only [State.setRedraw_pixel, State.mem_drwCells_and_pixel_drw_iff]

/-! ### Counting the pixels changed (R153 (c)) -/

/-- The cell on which bit `b.2` of sprite row `b.1` lands in a draw from `(x0, y0)` (R150, R152). -/
def bitCell (x0 y0 : Nat) (b : Fin 15 × Fin 8) : Pixel :=
  (Fin.ofNat 64 (x0 + (7 - b.2.val)), Fin.ofNat 32 (y0 + b.1.val))

/-- No two bits of a sprite land on one cell: 8 columns are distinct modulo 64, 15 rows modulo 32. -/
theorem bitCell_injective (x0 y0 : Nat) : Function.Injective (bitCell x0 y0) := by
  rintro ⟨r, k⟩ ⟨r', k'⟩ h
  simp only [bitCell, Prod.mk.injEq, Fin.ext_iff, Fin.val_ofNat] at h ⊢
  omega

/-- The cells of a draw are those its set bits land on. -/
theorem State.mem_drwCells_iff_exists_bit (s : State) (x y : Reg) (n : BitVec 4) (c : Pixel) :
    c ∈ s.drwCells x y n ↔ ∃ b : Fin 15 × Fin 8,
      (b.1.val < n.toNat ∧ (s.memRead (s.dataAddr b.1.val)).getLsbD b.2.val = true) ∧
        bitCell (s.v x).toNat (s.v y).toNat b = c := by
  rw [State.drwCells, State.mem_spriteCells]
  constructor
  · rintro ⟨r, k, hr, hk, hb, rfl⟩
    refine ⟨(⟨r, by omega⟩, ⟨7 - k, by omega⟩), ⟨hr, hb⟩, ?_⟩
    rw [bitCell, Nat.sub_sub_self (Nat.le_of_lt_succ hk)]
  · rintro ⟨⟨r, k⟩, ⟨hr, hb⟩, rfl⟩
    refine ⟨r, 7 - k.val, hr, by omega, ?_, rfl⟩
    rwa [spriteBit, spriteMsbLeft, if_pos rfl, Nat.sub_sub_self (Nat.le_of_lt_succ k.isLt)]

/-- Settles O50: the pixels changed are the image of the set bits under an injective map. -/
theorem drawChangesAsManyPixelsAsSetBits : Obligations.DrawChangesAsManyPixelsAsSetBits := by
  intro x y n s
  refine ⟨_, exec_drw s x y n, ?_⟩
  rw [← Finset.card_image_of_injective _ (bitCell_injective (s.v x).toNat (s.v y).toNat)]
  refine congrArg Finset.card (Finset.ext fun c => ?_)
  simp only [Finset.mem_filter, Finset.mem_univ, true_and, Finset.mem_image, State.setRedraw_pixel,
    State.pixel_drw_ne_iff, Prod.mk.eta, State.mem_drwCells_iff_exists_bit]

end Sys2Proof.Machine

namespace Sys2Proof.Machine

/-! ## Random number, keys, timers (44_keys_timers_random.md R160 to R166) -/

section
variable (s : State) (x : Reg)

/-! ### The random input -/

theorem asideReadAlike_setRnd (r : Byte) {i : Instr} (hi : ∀ x nn, i ≠ .rnd x nn) : AsideReadAlike s (s.setRnd r) i := by
  cases i with
  | rnd x nn => exact absurd rfl (hi x nn)
  | ldVxDT x => exact s.setRnd_DT r
  | _ => trivial

/-- What an instruction writes into the elements held aside does not involve the random input. -/
theorem asideAfter_setRnd (p : State) (r : Byte) (i : Instr) :
    asideAfter s (p.setRnd r) i = (asideAfter s p i).setRnd r := by
  cases i with
  | ret | call _ => simp only [asideAfter]; split <;> rfl
  | _ => rfl

/-! ### The timers -/

/-- Writing the delay timer touches that timer alone. -/
theorem State.frame_setDT (b : Byte) : Frame s (s.setDT b) (fun e => e = .DT) := by
  intro e he
  cases e with
  | DT => exact absurd rfl he
  | _ => rfl

/-- Writing the sound timer touches that timer alone. -/
theorem State.frame_setST (b : Byte) : Frame s (s.setST b) (fun e => e = .ST) := by
  intro e he
  cases e with
  | ST => exact absurd rfl he
  | _ => rfl

/-! ### The key a register names -/

theorem keyIndex_eq_iff (b : Byte) (k : Key) : keyIndex b = k ↔ k.val = b.toNat % 16 := by
  rw [keyIndex, Fin.ext_iff, Fin.val_ofNat, eq_comm]

/-- A skip on the negation of a condition (R162). -/
theorem State.skipIf_not_pc_toNat (c : Bool) :
    (s.skipIf (!c)).pc.toNat = if c then s.pc.toNat else (s.pc.toNat + 2) % 65536 := by
  rw [State.skipIf_pc_toNat]
  cases c <;> rfl

/-! ### The key wait -/

/-- A key number fits a register. -/
theorem ofNat_key_toNat (k : Key) : (BitVec.ofNat 8 k.val).toNat = k.val :=
  Nat.mod_eq_of_lt (Nat.lt_trans k.isLt (by decide))

/-- The key wait with a key pressed. -/
theorem exec_ldVxK_of_lowestKey {k : Key} (h : s.lowestKey = some k) :
    exec (.ldVxK x) s = .next (s.setV x (BitVec.ofNat 8 k.val)) := by
  simp only [exec, execLdVxK, h]

/-- The key wait with no key pressed. -/
theorem exec_ldVxK_of_no_key (h : ∀ k, s.keyAt k = false) : exec (.ldVxK x) s = .next (s.setPc (s.pc - 2)) := by
  simp only [exec, execLdVxK, s.lowestKey_eq_none_iff.2 h]

/-- A cycle at a key wait with no key pressed: the wait takes the fetch advance back. -/
theorem cycle_of_keyWait (r : Byte) (hdec : decode (s.fetchWord s.pc.toNat) = .ok (.ldVxK x))
    (hkeys : ∀ k, s.keyAt k = false) : cycle r s = .next ((s.setRnd r).setOut .none) := by
  have hpc : s.pc + 2 - 2 = s.pc := BitVec.add_sub_cancel s.pc 2
  calc cycle r s = exec (.ldVxK x) (s.enter r) := cycle_of_decode s r hdec
    _ = .next ((s.enter r).setPc (s.pc + 2 - 2)) := exec_ldVxK_of_no_key (s.enter r) x hkeys
    _ = .next ((s.enter r).setPc s.pc) := by rw [hpc]

end

/-- Settles O52: the second run holds the random input aside, which every instruction but CXNN leaves unread. -/
theorem randomInputIsOtherwiseIgnored : Obligations.RandomInputIsOtherwiseIgnored := by
  intro i s t r hi h
  calc exec i (s.setRnd r) = exec i (s.withAside (s.setRnd r)) := rfl
    _ = .next (t.withAside (asideAfter s (s.setRnd r) i)) := exec_withAside (asideReadAlike_setRnd s r hi) h
    _ = .next ((t.withAside (asideAfter s s i)).setRnd r) := by rw [asideAfter_setRnd]; rfl
    _ = .next (t.setRnd r) := by rw [exec_aside h]

/-- Settles O55, by the least pressed key. -/
theorem keyWaitLoadsLeastKeyOrRollsBack : Obligations.KeyWaitLoadsLeastKeyOrRollsBack := by
  intro x s
  cases hkey : s.lowestKey with
  | some k =>
    obtain ⟨hpressed, hleast⟩ := s.lowestKey_spec hkey
    refine ⟨_, exec_ldVxK_of_lowestKey s x hkey, .inl ⟨k, hpressed, hleast, ?_, s.frame_setV x _⟩⟩
    rw [State.v_setV_self, ofNat_key_toNat]
  | none =>
    have hkeys : ∀ k, s.keyAt k = false := s.lowestKey_eq_none_iff.1 hkey
    refine ⟨_, exec_ldVxK_of_no_key s x hkeys, .inr ⟨hkeys, ?_, s.frame_setPc _⟩⟩
    rw [State.setPc_pc, BitVec.toNat_sub, Nat.add_comm]
    rfl

/-- Settles O56: only the random input and the output are written. -/
theorem keyWaitStepIsIdle : Obligations.KeyWaitStepIsIdle :=
  fun s x r hdec hkeys => ⟨_, cycle_of_keyWait s x r hdec hkeys, sameElements_of_modelOwn rfl, rfl⟩

/-- Settles O51: the instruction is one register write, of the masked input. -/
theorem randomInputIsMasked : Obligations.RandomInputIsMasked := by
  intro x nn r s
  have hv : ((s.setRnd r).setV x (r &&& nn)).v x = r &&& nn := State.v_setV_self _ x _
  refine ⟨_, rfl, hv, ?_, State.frame_setV _ x _⟩
  calc ((s.setRnd r).setV x (r &&& nn)).v x &&& ~~~nn = r &&& (nn &&& ~~~nn) := by rw [hv, BitVec.and_assoc]
    _ = 0 := by rw [BitVec.and_not_self]; exact BitVec.and_zero

/-- Settles O53: each is a skip on the state of the key named. -/
theorem skipsOnKey : Obligations.SkipsOnKey := by
  intro x k s hk
  obtain rfl : keyIndex (s.v x) = k := (keyIndex_eq_iff _ k).2 hk
  exact ⟨⟨_, rfl, s.skipIf_pc_toNat _, s.frame_skipIf _⟩, ⟨_, rfl, s.skipIf_not_pc_toNat _, s.frame_skipIf _⟩⟩

/-- Settles O54: each is one write, of a register or of a timer. -/
theorem timerRegistersAreMoved : Obligations.TimerRegistersAreMoved :=
  fun x s => ⟨⟨_, rfl, s.v_setV_self x s.DT, s.frame_setV x _⟩, ⟨_, rfl, s.setDT_DT _, s.frame_setDT _⟩,
    ⟨_, rfl, s.setST_ST _, s.frame_setST _⟩⟩

end Sys2Proof.Machine

namespace Sys2Proof.Machine

/-! ## Diagnostics (60_exceptions.md R180 to R188) -/

section
variable {s t : State} {i : Instr}

/-- An instruction leaves the output as it was, or reports and does nothing else (R188). -/
theorem Effect.out_or_raise (he : Effect s i t) : t.out = s.out ∨ ∃ d, t = s.raise d := by
  cases he with
  | underflow | overflow => exact .inr ⟨_, rfl⟩
  | regs ht | digits ht | store ht | load ht => rw [ht]; exact .inl rfl
  | draw ht => rw [ht.1]; exact .inl rfl
  | _ => exact .inl rfl

/-- A diagnostic raised in the entered state leaves nothing of the step but the advance of `pc`. -/
theorem State.raise_enter_only_advances (s : State) (r : Byte) (d : Diagnostic) :
    ((s.enter r).raise d).pc.toNat = (s.pc.toNat + 2) % 65536 ∧
      Frame s ((s.enter r).raise d) (fun e => e = .pc ∨ e = .rnd ∨ e = .out) :=
  ⟨s.enter_pc_toNat r, (s.frame_enter r).trans ((State.frame_raise _ d).mono fun _ he => .inr (.inr he))⟩

/-- What a decoded instruction makes of the empty output it starts with is what its word, address and `sp` decide. -/
theorem asideAfter_enter_out {w : Word} (hdec : decode w = .ok i) (s : State) (r : Byte) :
    (asideAfter (s.enter r) (s.enter r) i).out = stepOutput w s.pc s.sp.val := by
  unfold stepOutput
  rw [hdec]
  cases i with
  | ret | call _ =>
    simp only [asideAfter, State.enter_sp, State.instrAddr_enter]
    split <;> rfl
  | _ => rfl

/-- The output of an executed instruction, as a step has it. -/
theorem exec_enter_out {w : Word} {r : Byte} (hdec : decode w = .ok i) (h : exec i (s.enter r) = .next t) :
    t.out = stepOutput w s.pc s.sp.val :=
  (congrArg State.out (exec_aside h)).symm.trans (asideAfter_enter_out hdec s r)

/-- An instruction that ends with a diagnostic did nothing but raise it. -/
theorem exec_enter_of_diagnosed {r : Byte} (h : exec i (s.enter r) = .next t) (hd : t.diagnosed = true) :
    ∃ d, t = (s.enter r).raise d := by
  refine (exec_effect h).out_or_raise.resolve_left fun hout => ?_
  rw [State.diagnosed, hout] at hd
  cases hd

end

/-- Settles O12, by whether the word decodes. -/
theorem diagnosticsHaveOneCauseAndNoOtherEffect : Obligations.DiagnosticsHaveOneCauseAndNoOtherEffect := by
  intro s r
  obtain ⟨i, hdec, hcycle⟩ | ⟨_, hdec, hcycle⟩ := cycle_cases s r
  · obtain ⟨t, ht, _⟩ := exec_answers_effect (s.enter r) i
    refine ⟨t, hcycle.trans ht, exec_enter_out hdec ht, fun hd => ?_⟩
    obtain ⟨d, rfl⟩ := exec_enter_of_diagnosed ht hd
    exact s.raise_enter_only_advances r d
  · refine ⟨_, hcycle, ?_, fun _ => s.raise_enter_only_advances r _⟩
    rw [stepOutput, hdec]
    rfl

end Sys2Proof.Machine

namespace Sys2Proof.Machine

/-! ## The timers in `tick` (60_exceptions.md R191 to R193) -/

section
variable (s : State)

/-- The tone request is the transition of `ST` from 1 to 0 (R193). -/
theorem doTick_out : (doTick s).out = .toneRequest (decide (s.ST.toNat = 1)) :=
  congrArg Output.toneRequest (decide_eq_decide.2 (BitVec.toNat_inj (y := 1#8)).symm)

/-- A tick touches the timers and the output alone. -/
theorem frame_doTick : Frame s (doTick s) (fun e => e = .DT ∨ e = .ST ∨ e = .out) := by
  intro e he
  cases e with
  | DT | ST | out => simp at he
  | _ => rfl

/-! ### Several ticks -/

/-- A timer counts down to 0 and stays there (R192). -/
theorem iterate_countDown_toNat (b : Byte) (k : Nat) : (countDown^[k] b).toNat = b.toNat - k := by
  induction k with
  | zero => rfl
  | succ k ih => rw [Function.iterate_succ_apply', countDown_toNat, ih, Nat.sub_sub]

theorem iterate_doTick_DT (k : Nat) : (doTick^[k] s).DT = countDown^[k] s.DT :=
  Function.Semiconj.iterate_right (f := State.DT) (fun _ => rfl) k s

theorem iterate_doTick_ST (k : Nat) : (doTick^[k] s).ST = countDown^[k] s.ST :=
  Function.Semiconj.iterate_right (f := State.ST) (fun _ => rfl) k s

theorem frame_iterate_doTick (k : Nat) :
    Frame s (doTick^[k] s) (fun e => e = .DT ∨ e = .ST ∨ e = .out) := by
  induction k with
  | zero => exact Frame.refl s _
  | succ k ih =>
    rw [Function.iterate_succ_apply']
    exact ih.trans (frame_doTick _)

/-! ### A tick and an instruction (R217) -/

/-- A tick of a state reads and writes what `withAside` holds, and nothing else. -/
theorem doTick_withAside (p : State) : doTick (s.withAside p) = s.withAside (doTick p) := rfl

variable {i : Instr}

/-- An instruction that does not read `DT` reads alike after a tick. -/
theorem asideReadAlike_doTick (hi : ∀ x, i ≠ .ldVxDT x) : AsideReadAlike s (doTick s) i := by
  cases i with
  | ldVxDT x => exact absurd rfl (hi x)
  | rnd _ _ => rfl
  | _ => trivial

/-- What an instruction that writes no timer makes of the elements held aside, with the tick after it or before it:
only the output tells which came last. -/
theorem frame_doTick_asideAfter (p : State) (hDT : ∀ x, i ≠ .ldDTVx x) (hST : ∀ x, i ≠ .ldSTVx x) :
    Frame (doTick (asideAfter s p i)) (asideAfter s (doTick p) i) (fun e => e = .out) := by
  cases i with
  | ldDTVx x => exact absurd rfl (hDT x)
  | ldSTVx x => exact absurd rfl (hST x)
  | ret | call _ =>
    simp only [asideAfter]
    split
    · exact (doTick p).frame_raise _
    · exact Frame.refl _ _
  | _ => exact Frame.refl _ _

end

/-- Settles O21: the new timers, the tone request and the frame of the tick. -/
theorem tickCountsDown : Obligations.TickCountsDown :=
  fun s => ⟨_, rfl, countDown_toNat s.DT, countDown_toNat s.ST, doTick_out s, frame_doTick s⟩

/-- Settles O22: each timer counts down on its own, and each tick has the frame. -/
theorem timersReachZeroAfterTheirValue : Obligations.TimersReachZeroAfterTheirValue := by
  intro s k
  rw [iterate_doTick_DT, iterate_doTick_ST]
  exact ⟨iterate_countDown_toNat s.DT k, iterate_countDown_toNat s.ST k, frame_iterate_doTick s k⟩

/-- Settles O23: the last tick finds `ST` at 1 exactly when it began `k` above that. -/
theorem oneToneRequestPerCount : Obligations.OneToneRequestPerCount := by
  intro s k
  have hone : s.ST.toNat - k = 1 ↔ s.ST.toNat = k + 1 := by omega
  rw [Function.iterate_succ_apply', doTick_out, iterate_doTick_ST, iterate_countDown_toNat,
    decide_eq_decide.2 hone]

/-- Settles O59: the second run holds the ticked timers aside, which the instruction neither reads nor writes. -/
theorem tickCommutesWithOtherInstructions : Obligations.TickCommutesWithOtherInstructions := by
  intro i s hi
  have hread : AsideReadAlike s (doTick s) i := asideReadAlike_doTick s fun x => (hi x).1
  have hframe := frame_doTick_asideAfter s s (fun x => (hi x).2.1) fun x => (hi x).2.2
  obtain ⟨t, ht, _⟩ := exec_answers_effect s i
  refine ⟨t, ht, _, exec_withAside hread ht, ?_⟩
  have hafter : t.withAside (doTick (asideAfter s s i)) = doTick t := by
    rw [← doTick_withAside, exec_aside ht]
  exact hafter ▸ hframe.withAside t

end Sys2Proof.Machine

namespace Sys2Proof.Machine

/-! ## The host's operations (70_reset_and_hazards.md R210 to R219) -/

/-- Settles O6, by the two branches of the choice of the next operation. -/
theorem stepPerformsNextOperation : Obligations.StepPerformsNextOperation :=
  fun s => ⟨fun _ _ => nextOperation_cons s, nextOperation_nil s⟩

section
variable (s : State)

/-- Writing the output touches the output alone. -/
theorem State.frame_setOut (o : Output) : Frame s (s.setOut o) (fun e => e = .out) := by
  intro e he
  cases e with
  | out => exact absurd rfl he
  | _ => rfl

/-! ### `reset` (R210) -/

/-- The elements of R20 do not depend on the state in which `reset` is issued: they are those of `State.reset`. -/
theorem holdsResetValues_doReset : HoldsResetValues (doReset s) := resetStateValues

/-! ### `loadProgram` (R212, R213) -/

variable {bytes : List Byte}

theorem doLoadProgram_of_fits (hpos : 1 ≤ bytes.length) (hmax : bytes.length ≤ 3584) :
    doLoadProgram bytes s = (s.memWriteAll 0x200 bytes).setOut .loaded := by
  rw [doLoadProgram, if_neg (Nat.ne_of_gt hpos), if_neg (Nat.not_lt.2 hmax)]

theorem doLoadProgram_of_not_fits (h : bytes.length = 0 ∨ 3584 < bytes.length) :
    doLoadProgram bytes s = s.setOut (.loadFailed (if bytes.length = 0 then .romEmpty else .romTooLarge)) := by
  unfold doLoadProgram
  by_cases hempty : bytes.length = 0
  · rw [if_pos hempty, if_pos hempty]
  · rw [if_neg hempty, if_neg hempty, if_pos (h.resolve_left hempty)]

/-- An image that fits below the end of memory touches the cells it covers alone. -/
theorem State.frame_memWriteAll {a : Nat} (hfit : a + bytes.length ≤ 4096) :
    Frame s (s.memWriteAll a bytes)
      (fun e => ∃ c : Fin 4096, e = .mem c ∧ a ≤ c.val ∧ c.val < a + bytes.length) := by
  intro e he
  cases e with
  | mem c =>
    have hout : ¬ (a ≤ c.val ∧ c.val - a < bytes.length) := fun ⟨hle, hlt⟩ => he ⟨c, rfl, hle, by omega⟩
    exact (State.memRead_memWriteAll bytes s a hfit c.val c.isLt).trans (dif_neg hout)
  | _ => rw [s.onlyMem_memWriteAll bytes a]; rfl

/-- An image that fits below the end of memory is read back byte for byte. -/
theorem State.memRead_memWriteAll_image {a : Nat} (hfit : a + bytes.length ≤ 4096) (i : Nat) (hi : i < bytes.length) :
    (s.memWriteAll a bytes).memRead (a + i) = bytes[i] := by
  rw [State.memRead_memWriteAll bytes s a hfit (a + i) (by omega), dif_pos ⟨Nat.le_add_right a i, by omega⟩]
  simp only [Nat.add_sub_cancel_left]

/-! ### `setKey` (R218) -/

/-- Writing a key flag touches that flag alone. -/
theorem State.frame_setKeyAt (k : Key) (b : Bool) : Frame s (s.setKeyAt k b) (fun e => e = .key k) := by
  intro e he
  cases e with
  | key j => exact (s.keyAt_setKeyAt k b j).trans (if_neg fun hj => he (congrArg Element.key hj))
  | _ => rfl

end

/-- Settles O18: what the operation leaves is what `State.reset` holds. -/
theorem resetOperationSetsEveryElement : Obligations.ResetOperationSetsEveryElement :=
  fun s => ⟨_, rfl, holdsResetValues_doReset s, rfl⟩

/-- Settles O19: the image is written below the end of memory, then the output. -/
theorem loadProgramPlacesImage : Obligations.LoadProgramPlacesImage := by
  intro s bytes hpos hmax
  have hfit : 0x200 + bytes.length ≤ 4096 := by omega
  refine ⟨_, congrArg Host.Outcome.next (doLoadProgram_of_fits s hpos hmax), fun i hi => ?_, rfl, ?_⟩
  · rw [State.setOut_memRead]
    exact s.memRead_memWriteAll_image hfit i hi
  · exact ((s.frame_memWriteAll hfit).mono fun _ => .inr).trans ((State.frame_setOut _ _).mono fun _ => .inl)

/-- Settles O20: only the output is written. -/
theorem loadProgramErrorsChangeNothing : Obligations.LoadProgramErrorsChangeNothing :=
  fun s _ h => ⟨_, congrArg Host.Outcome.next (doLoadProgram_of_not_fits s h), rfl, s.frame_setOut _⟩

/-- Settles O24: one key flag is written, then the output. -/
theorem setKeyWritesOneFlag : Obligations.SetKeyWritesOneFlag := by
  intro s k b
  refine ⟨_, rfl, ?_, rfl,
    ((s.frame_setKeyAt k b).mono fun _ => .inl).trans ((State.frame_setOut _ .none).mono fun _ => .inr)⟩
  exact (s.keyAt_setKeyAt k b k).trans (if_pos rfl)

/-- Settles O25: `clearRedraw` writes the flag and the output, each observation the output alone. -/
theorem clearRedrawAndObservations : Obligations.ClearRedrawAndObservations := by
  refine fun s => ⟨⟨_, rfl, rfl, rfl, ?_⟩, ⟨_, rfl, rfl, s.frame_setOut _⟩, ⟨_, rfl, rfl, s.frame_setOut _⟩⟩
  exact ((s.frame_setRedraw false).mono fun _ => .inl).trans ((State.frame_setOut _ .none).mono fun _ => .inr)

end Sys2Proof.Machine

namespace Sys2Proof.Machine

/-! ## Idle steps (R231, log 18)

An instruction leaves `pc` where the step began only by taking the fetch advance back: a jump to itself or the key wait.
A call or a return may also end there, but moves `sp`. -/

section
variable {s t : State} {r : Byte} {i : Instr}

/-- The fetch advance, modulo 65536, moves `pc`. -/
theorem State.enter_pc_ne (s : State) (r : Byte) : (s.enter r).pc ≠ s.pc := by
  rw [State.enter_pc]
  bv_omega

/-- A skip moves `pc` by 2 or 4. -/
theorem State.skipIf_enter_pc_ne (s : State) (r : Byte) (c : Bool) : ((s.enter r).skipIf c).pc ≠ s.pc := by
  cases c with
  | false => exact s.enter_pc_ne r
  | true => exact show s.pc + 2 + 2 ≠ s.pc by bv_omega

/-- An instruction that leaves `pc` alone keeps the fetch advance. -/
theorem pc_ne_of_frame_enter {changed : Element → Prop} (h : Frame (s.enter r) t changed) (hpc : ¬ changed .pc) :
    t.pc ≠ s.pc :=
  fun hback => s.enter_pc_ne r ((h .pc hpc).symm.trans hback)

/-- A return reports and falls through, or moves `sp`. -/
theorem exec_ret_enter_moves (h : exec .ret (s.enter r) = .next t) (hpc : t.pc = s.pc) : t.sp ≠ s.sp := by
  obtain ⟨u, hu, hret⟩ := retPopsOrReports (s.enter r)
  cases hu.symm.trans h
  obtain ⟨_, _, hframe⟩ | ⟨_, hmove, _⟩ := hret
  · exact absurd hpc (pc_ne_of_frame_enter hframe (by simp))
  · exact fun hsp => by simp [hsp] at hmove

/-- A call reports and falls through, or moves `sp`. -/
theorem exec_call_enter_moves {a : BitVec 12} (h : exec (.call a) (s.enter r) = .next t) (hpc : t.pc = s.pc) :
    t.sp ≠ s.sp := by
  obtain ⟨u, hu, hcall⟩ := callPushesOrReports a (s.enter r)
  cases hu.symm.trans h
  obtain ⟨_, _, hframe⟩ | ⟨_, hmove, _⟩ := hcall
  · exact absurd hpc (pc_ne_of_frame_enter hframe (by simp))
  · exact fun hsp => by simp [hsp] at hmove

/-- A key wait that ends at its own address found no key pressed. -/
theorem exec_ldVxK_enter_keeps_pc {x : Reg} (h : exec (.ldVxK x) (s.enter r) = .next t) (hpc : t.pc = s.pc) :
    ∀ k, s.keyAt k = false := by
  obtain ⟨u, hu, hwait⟩ := keyWaitLoadsLeastKeyOrRollsBack x (s.enter r)
  cases hu.symm.trans h
  obtain ⟨_, _, _, _, hframe⟩ | ⟨hkeys, _⟩ := hwait
  · exact absurd hpc (pc_ne_of_frame_enter hframe (by simp))
  · exact hkeys

/-- Every instruction of a step that leaves `pc` and `sp` where they were is a jump to its own address or a key wait
with no key pressed. -/
theorem exec_enter_keeps_pc_sp (h : exec i (s.enter r) = .next t) (hpc : t.pc = s.pc) (hsp : t.sp = s.sp) :
    (∃ nnn, i = .jp nnn ∧ nnn.toNat = s.pc.toNat) ∨
    (∃ nnn, i = .jpV0 nnn ∧ (s.v 0).toNat + nnn.toNat = s.pc.toNat) ∨
    (∃ x, i = .ldVxK x ∧ ∀ k, s.keyAt k = false) := by
  have hwrites : MayWritePc i := by
    obtain ⟨_, _, _, _, hmay, _⟩ := instructionsWriteOnlyWhatTheyOwn i _ _ h
    exact hmay fun hkept => s.enter_pc_ne r (hkept.symm.trans hpc)
  cases i with
  | jp nnn =>
    obtain ⟨u, hu, hjump, _⟩ := jumpSetsPc nnn (s.enter r)
    cases hu.symm.trans h
    exact .inl ⟨nnn, rfl, hjump.symm.trans (congrArg BitVec.toNat hpc)⟩
  | jpV0 nnn =>
    obtain ⟨u, hu, hjump, _⟩ := jumpWithOffset nnn (s.enter r)
    cases hu.symm.trans h
    exact .inr (.inl ⟨nnn, rfl, hjump.symm.trans (congrArg BitVec.toNat hpc)⟩)
  | ldVxK x => exact .inr (.inr ⟨x, rfl, exec_ldVxK_enter_keeps_pc h hpc⟩)
  | ret => exact absurd hsp (exec_ret_enter_moves h hpc)
  | call a => exact absurd hsp (exec_call_enter_moves h hpc)
  | seByte | sneByte | seReg | sneReg | skp | sknp =>
    cases h
    exact absurd hpc (s.skipIf_enter_pc_ne r _)
  | _ => exact absurd hwrites id

/-- A cycle at an offset jump to itself: the jump takes the fetch advance back. -/
theorem cycle_of_offsetJump_to_self {nnn : BitVec 12} (r : Byte)
    (hdec : decode (s.fetchWord s.pc.toNat) = .ok (.jpV0 nnn))
    (hself : (s.v 0).toNat + nnn.toNat = s.pc.toNat) : cycle r s = .next ((s.setRnd r).setOut .none) := by
  obtain ⟨t, ht, hjump, _⟩ := jumpWithOffset nnn (s.enter r)
  have hpc : zext16 (s.v 0) + zext16 nnn = s.pc := by
    cases ht
    exact BitVec.eq_of_toNat_eq (hjump.trans hself)
  calc cycle r s = exec (.jpV0 nnn) (s.enter r) := cycle_of_decode s r hdec
    _ = .next ((s.enter r).setPc (zext16 (s.v 0) + zext16 nnn)) := rfl
    _ = .next ((s.enter r).setPc s.pc) := by rw [hpc]

end

/-- Settles O60: a step that keeps `pc` and `sp` executes one of three instructions, and each of them writes the random
input and the output alone. -/
theorem onlyIdleStepsChangeNothing : Obligations.OnlyIdleStepsChangeNothing := by
  intro s r
  obtain ⟨t, ht⟩ := cycle_answers s r
  refine ⟨t, ht, fun hsame => ?_, fun hidle => ?_⟩
  · have hpc : t.pc = s.pc := hsame .pc id
    have hsp : t.sp = s.sp := hsame .sp id
    obtain ⟨i, hdec, hcycle⟩ | ⟨_, _, hcycle⟩ := cycle_cases s r
    · obtain ⟨nnn, rfl, hself⟩ | ⟨nnn, rfl, hself⟩ | ⟨x, rfl, hkeys⟩ :=
        exec_enter_keeps_pc_sp (hcycle.symm.trans ht) hpc hsp
      · exact .inl (s.finished_iff.2 ⟨nnn, hdec, hself⟩)
      · exact .inr (.inl ⟨nnn, hdec, hself⟩)
      · exact .inr (.inr ⟨x, hdec, hkeys⟩)
    · cases hcycle.symm.trans ht
      exact absurd hpc (s.enter_pc_ne r)
  · have hcycle : cycle r s = .next ((s.setRnd r).setOut .none) := by
      obtain hs | ⟨_, hdec, hself⟩ | ⟨x, hdec, hkeys⟩ := hidle
      · exact cycle_of_finished hs r
      · exact cycle_of_offsetJump_to_self r hdec hself
      · exact cycle_of_keyWait s x r hdec hkeys
    cases hcycle.symm.trans ht
    exact sameElements_of_modelOwn rfl

end Sys2Proof.Machine
